-- ==== Sys2Proof/Word.lean ====
section
/-! DEFINITION. The words of the bit cursor: a buffer byte, the ARG operand and the 64-bit data
operand and result (spec rules R41, R90, R91). -/

namespace Sys2Proof

/-- One byte of the buffer (R41: `buf[i]` is 8 bits). -/
abbrev Byte := BitVec 8

/-- The ARG field of a request (R11, R90: 32 bits, two's complement). -/
abbrev Arg := BitVec 32

/-- A WDATA or RDATA field (R90, R91: 64 bits, unsigned). -/
abbrev Data := BitVec 64

end Sys2Proof
end

