-- ==== Sys2Proof/Config.lean ====
section
/-! DEFINITION. What one instance of the bit cursor fixes (R9, R10): its kind and its buffer length,
with the values `State.reset` takes for them, and what an unlisted byte of the buffer reads as. -/

namespace Sys2Proof

/-- R10: the instance kind. A Reader's buffer is read-only, a Writer's is mutable. -/
inductive Kind where
  | reader
  | writer
  deriving DecidableEq, Repr

/-- R9, D6: `BUF_BYTES` (`L`) is a natural number with `0 ≤ L ≤ 268435455`. -/
abbrev BufBytes := Fin 268435456

/-- DESIGN CHOICE (log entry 1), unsafe: KIND is a parameter (R10, I8), and `State.reset` needs one. -/
def Config.resetKind : Kind := .reader

/-- DESIGN CHOICE (log entry 1), unsafe: `L` is a parameter (R9, I8), and `State.reset` needs one.
Nine bytes is the length of the spec's own example buffer `E` (41_reader.md). -/
def Config.resetBytes : BufBytes := 9

/-- DESIGN CHOICE (log entry 2), unsafe: what a byte that the buffer's list does not name reads as.
The host supplies the buffer's contents (R41, I7), so no rule gives a value. -/
def Config.unlistedByte : Byte := 0

end Sys2Proof
end

