-- ==== Sys2Proof/Syntax.lean ====
section
/-! DEFINITION. The commands of the bit cursor: the request the host sends (R90), the width classes
(R94), and one constructor of `Instr` for each of the 48 rows of spec/opcode_table.json. -/

namespace Sys2Proof

/-- R90: a request has three fields, `OP`, `ARG` and `WDATA`. -/
structure Request where
  op : Byte
  arg : Arg
  wdata : Data
  deriving DecidableEq, Repr

/-- R94: the five width classes. -/
inductive WidthClass where
  | bit
  | byte
  | short
  | int
  | long
  deriving DecidableEq, Repr

/-- The commands. A count, offset or position is the signed integer `a` that R97 reads from ARG. A
written value is the whole WDATA field, which the meaning cuts (R98). An operand that a command
ignores (D12) is no operand here. -/
inductive Instr where
  /-- TryPeekBit (R161) -/
  | tryPeekBit
  /-- PeekBit (R162) -/
  | peekBit
  /-- TryReadBit (R163) -/
  | tryReadBit
  /-- ReadBit (R164) -/
  | readBit
  /-- TryPeekByte (R165) -/
  | tryPeekByte (count : Int)
  /-- PeekByte (R166) -/
  | peekByte (count : Int)
  /-- TryReadByte (R167) -/
  | tryReadByte (count : Int)
  /-- ReadByte (R168) -/
  | readByte (count : Int)
  /-- TryPeekShort (R169) -/
  | tryPeekShort (count : Int)
  /-- PeekShort (R170) -/
  | peekShort (count : Int)
  /-- TryReadShort (R171) -/
  | tryReadShort (count : Int)
  /-- ReadShort (R172) -/
  | readShort (count : Int)
  /-- TryPeekInt (R173) -/
  | tryPeekInt (count : Int)
  /-- PeekInt (R174) -/
  | peekInt (count : Int)
  /-- TryReadInt (R175) -/
  | tryReadInt (count : Int)
  /-- ReadInt (R176) -/
  | readInt (count : Int)
  /-- TryPeekLong (R177) -/
  | tryPeekLong (count : Int)
  /-- PeekLong (R178) -/
  | peekLong (count : Int)
  /-- TryReadLong (R179) -/
  | tryReadLong (count : Int)
  /-- ReadLong (R180) -/
  | readLong (count : Int)
  /-- TryPokeBit (R201) -/
  | tryPokeBit (value : Data)
  /-- PokeBit (R202) -/
  | pokeBit (value : Data)
  /-- TryWriteBit (R203) -/
  | tryWriteBit (value : Data)
  /-- WriteBit (R204) -/
  | writeBit (value : Data)
  /-- TryPokeByte (R205) -/
  | tryPokeByte (value : Data) (count : Int)
  /-- PokeByte (R206) -/
  | pokeByte (value : Data) (count : Int)
  /-- TryWriteByte (R207) -/
  | tryWriteByte (value : Data) (count : Int)
  /-- WriteByte (R208) -/
  | writeByte (value : Data) (count : Int)
  /-- TryPokeShort (R209) -/
  | tryPokeShort (value : Data) (count : Int)
  /-- PokeShort (R210) -/
  | pokeShort (value : Data) (count : Int)
  /-- TryWriteShort (R211) -/
  | tryWriteShort (value : Data) (count : Int)
  /-- WriteShort (R212) -/
  | writeShort (value : Data) (count : Int)
  /-- TryPokeInt (R213) -/
  | tryPokeInt (value : Data) (count : Int)
  /-- PokeInt (R214) -/
  | pokeInt (value : Data) (count : Int)
  /-- TryWriteInt (R215) -/
  | tryWriteInt (value : Data) (count : Int)
  /-- WriteInt (R216) -/
  | writeInt (value : Data) (count : Int)
  /-- TryPokeLong (R217) -/
  | tryPokeLong (value : Data) (count : Int)
  /-- PokeLong (R218) -/
  | pokeLong (value : Data) (count : Int)
  /-- TryWriteLong (R219) -/
  | tryWriteLong (value : Data) (count : Int)
  /-- WriteLong (R220) -/
  | writeLong (value : Data) (count : Int)
  /-- New (R240) -/
  | new (offset : Int)
  /-- GetBitLength (R241) -/
  | getBitLength
  /-- GetBitPosition (R242) -/
  | getBitPosition
  /-- SetBitPosition (R243) -/
  | setBitPosition (position : Int)
  /-- GetBytePosition (R244) -/
  | getBytePosition
  /-- SetBytePosition (R245) -/
  | setBytePosition (bytePosition : Int)
  /-- GetBitOffset (R246) -/
  | getBitOffset
  /-- GetRemainingBits (R247) -/
  | getRemainingBits
  deriving DecidableEq, Repr

end Sys2Proof
end

