-- ==== Sys2Proof/Machine/State.lean ====
section
/-! DEFINITION. The machine's state (R30 to R43): one cursor unit with its parameters, its buffer and
its position register, and the two sides of its command interface (R90, R91). The spec's state is
`buf`, `BL` (computed from `len`, R32) and `pos`; the other fields are the model's own. -/

namespace Sys2Proof.Machine

/-- R41, R60: the buffer's bytes by index, as (index, byte) pairs. An index that is not listed reads
as `Config.unlistedByte`. -/
abbrev Memory := List Host.Cell

/-- The indices rise strictly from `lo` on, and no listed byte is the one an unlisted index has. -/
def Memory.wfFrom : Nat → Memory → Bool
  | _, [] => true
  | lo, (a, b) :: rest => decide (lo ≤ a) && decide (b ≠ Config.unlistedByte) && Memory.wfFrom (a + 1) rest

/-- The one canonical form of a buffer: equal contents are equal lists. -/
def Memory.wf (m : Memory) : Bool := Memory.wfFrom 0 m

/-- R60: every listed index lies in `0 .. n − 1`. -/
def Memory.within (n : Nat) (m : Memory) : Bool := m.all (fun c => decide (c.1 < n))

/-- R270: the STATUS of a response. Codes 5 to 7 are never produced, so they have no name here. -/
inductive Status where
  /-- code 0: the command succeeded -/
  | ok
  /-- code 1: a Try access found too few bits left -/
  | fail
  /-- code 2, ArgumentOutOfRange: a count or position is out of range -/
  | errRange
  /-- code 3, EndOfStream: a throwing access found too few bits left -/
  | errEos
  /-- code 4: the command is illegal on this unit -/
  | errIllegal
  deriving DecidableEq, Repr

/-- R91: a response has two fields. -/
structure Response where
  status : Status
  rdata : Data
  deriving DecidableEq, Repr

/-- What the world outside does to the unit, one event at a time (R12, R300 to R306). -/
inductive HostEvent where
  /-- R12, R90: the host issues a command -/
  | command (r : Request)
  /-- R300: the unit is reset -/
  | reset
  /-- R302: the host lends a buffer with these bytes, binds it and resets the unit -/
  | lend (bytes : List Byte)
  /-- R252, R303: the host takes its buffer back, and the cursor's lifetime ends -/
  | withdraw
  /-- R72, R306: some other agent reads or writes the buffer -/
  | strayAccess
  /-- R72, R305: some other agent issues a command -/
  | strayCommand (r : Request)
  deriving DecidableEq, Repr

/-- One cursor unit. -/
structure State where
  /-- R10: KIND, a parameter; no step writes it -/
  kind : Kind
  /-- R9: `L`, a parameter; no step writes it. `BL = 8·L` (R32) -/
  len : BufBytes
  /-- R302, R303: the unit holds the host's buffer (model's own, log entry 5) -/
  lent : Bool
  /-- R30, R41: the buffer -/
  buf : Memory
  /-- R31, R34: the bit-position register `pos[30:0]` -/
  pos : BitVec 31
  /-- the host's events still to come, the next one first (model's own, log entry 4) -/
  host : List HostEvent
  /-- R91: the response to the latest command; none since reset (model's own, log entry 4) -/
  response : Option Response
  deriving DecidableEq, Repr

/-- Why a step stops with a fault. -/
inductive Fault where
  /-- Raised by a field access that would touch a byte index outside `0 .. L − 1` (R60, R141). Safe:
  such a byte does not exist. No command reaches it, since the exhaustion check comes first. -/
  | outsideBuffer
  deriving DecidableEq, Repr

/-- Why a step is refused. -/
inductive Refusal where
  /-- Raised by an arm of `exec` whose instruction has no meaning yet; no arm is such. Safe. -/
  | notModelled (mnemonic : String)
  /-- Raised by a command after the buffer was withdrawn (R303, I4): the run has no meaning. Safe. -/
  | bufferWithdrawn
  /-- Raised by a command of a second issuer (R72, R305, I2): the run has no meaning. Safe. -/
  | secondIssuer
  /-- Raised by another agent's access to the lent buffer (R72, R306, I3): no meaning. Safe. -/
  | foreignAccess
  /-- Raised by lending a buffer that is not exactly `L` bytes long (R302). Safe. -/
  | bufferLength
  deriving DecidableEq, Repr

/-- R43, R300: the machine after reset, `pos = 0` with no response. The parameters and the buffer's
bytes are the model's choice (log entries 1 and 2), for the spec makes them inputs. -/
def State.reset : State where
  kind := Config.resetKind
  len := Config.resetBytes
  lent := true
  buf := []
  pos := 0
  host := []
  response := none

end Sys2Proof.Machine
end

