-- ==== Sys2Proof/Machine/Ops.lean ====
section
/-! DEFINITION. The named operations over the buffer, the position register and the response: the only
code that reads or writes a field of `State`. A failed command is `raise`, the one shared operation
for R270's errors; there is no trap and no return from one (R278, R279). -/

namespace Sys2Proof.Machine

/-- R16: `buf[i]`, which is `MemRead(i, 1)`. -/
def Memory.get : Memory → Nat → Byte
  | [], _ => Config.unlistedByte
  | (a, b) :: rest, i => if i = a then b else Memory.get rest i

/-- R16: `buf[i] <- b`, which is `MemWrite(i, 1, b)`, keeping the canonical form. -/
def Memory.set : Memory → Nat → Byte → Memory
  | [], i, b => if b = Config.unlistedByte then [] else [(i, b)]
  | (a, c) :: rest, i, b =>
    if i < a then
      if b = Config.unlistedByte then (a, c) :: rest else (i, b) :: (a, c) :: rest
    else if i = a then
      if b = Config.unlistedByte then rest else (i, b) :: rest
    else (a, c) :: Memory.set rest i b

/-- The canonical buffer whose byte `lo + k` is the `k`-th of the given bytes. -/
def Memory.ofBytesFrom : Nat → List Byte → Memory
  | _, [] => []
  | lo, b :: rest =>
    if b = Config.unlistedByte then Memory.ofBytesFrom (lo + 1) rest
    else (lo, b) :: Memory.ofBytesFrom (lo + 1) rest

/-- R302: the buffer with these contents. -/
def Memory.ofBytes (bytes : List Byte) : Memory := Memory.ofBytesFrom 0 bytes

/-- R62: buffer bit `q` is bit `7 − (q mod 8)` of byte `q / 8`. -/
def Memory.bit (m : Memory) (q : Nat) : Bool := (Memory.get m (q / 8)).getLsbD (7 - q % 8)

/-- R32: `BL = 8·L`. -/
def State.bitLength (s : State) : Nat := 8 * s.len.val

/-- R31: `pos` as a number. -/
def State.position (s : State) : Nat := s.pos.toNat

/-- R33: `BytePosition = pos / 8`. -/
def State.bytePosition (s : State) : Nat := s.position / 8

/-- R33: `BitOffset = pos % 8`. -/
def State.bitOffset (s : State) : Nat := s.position % 8

/-- R33: `RemainingBits = BL − pos`. -/
def State.remainingBits (s : State) : Nat := s.bitLength - s.position

/-- `pos <- p` (R16, R34). -/
def State.setPosition (p : Nat) (s : State) : State := { s with pos := BitVec.ofNat 31 p }

/-- The buffer replaced, nothing else. -/
def State.setBuffer (m : Memory) (s : State) : State := { s with buf := m }

/-- R16, R91: `respond(status, rdata)`. -/
def respond (status : Status) (rdata : Data) (s : State) : State :=
  { s with response := some ⟨status, rdata⟩ }

/-- R16, R275: a failed command responds with `RDATA = 0` and writes no state. -/
def raise (status : Status) (s : State) : State := respond status 0 s

/-- R300: reset sets `pos <- 0`, keeps the buffer and produces no response. -/
def resetUnit (s : State) : State := { s with pos := 0, response := none }

/-- R302: the host's buffer of exactly `L` bytes is bound and the unit reset. -/
def bindBuffer (bytes : List Byte) (s : State) : State :=
  resetUnit { s with lent := true, buf := Memory.ofBytes bytes }

/-- R252: the host takes the buffer back. What the unit knows of it stays as it was handed back (R306). -/
def releaseBuffer (s : State) : State := { s with lent := false }

/-- The event at the head of the host's list is used up. -/
def dropEvent (s : State) : State := { s with host := s.host.tail }

/-- R60, R65, R141: every byte that the field `[p, p + n)` touches exists. -/
def State.holdsField (s : State) (p n : Nat) : Bool := decide ((p + n - 1) / 8 < s.len.val)

end Sys2Proof.Machine
end

