-- ==== Sys2Proof/Machine/Flags.lean ====
section
/-! DEFINITION. The block has no flags and no condition codes (R38); what it says of a command is the
STATUS of its response. Here are the codes (R270) and the choice between FAIL and ERR_EOS (R272). -/

namespace Sys2Proof.Machine

/-- R270: the STATUS codes. -/
def Status.code : Status → BitVec 3
  | .ok => 0
  | .fail => 1
  | .errRange => 2
  | .errEos => 3
  | .errIllegal => 4

/-- R93, field `T`: the Try variant or the throwing variant. -/
inductive Variant where
  | try_
  | throwing
  deriving DecidableEq, Repr

/-- R93, field `V`: peek and poke stay, read and write advance. -/
inductive Motion where
  | stay
  | advance
  deriving DecidableEq, Repr

/-- R272: exhaustion gives FAIL in the Try variant and ERR_EOS in the throwing one. -/
def exhausted : Variant → Status
  | .try_ => .fail
  | .throwing => .errEos

end Sys2Proof.Machine
end

