-- ==== Sys2Proof/Machine/Operands.lean ====
section
/-! DEFINITION. The operand forms of the access commands: the class limits (R94), the bit count from
the signed argument (R97) and the value from WDATA (R98). -/

namespace Sys2Proof.Machine

/-- R94: `WMAX` of a width class. -/
def classMax : WidthClass → Nat
  | .bit => 1
  | .byte => 8
  | .short => 16
  | .int => 32
  | .long => 64

/-- R97, R160, R200: the bit count `N`, or none where `a` is outside `1 .. WMAX`. The Bit class takes
no count. -/
def bitCount (w : WidthClass) (a : Int) : Option Nat :=
  match w with
  | .bit => some 1
  | _ => if a < 1 ∨ (classMax w : Int) < a then none else some a.toNat

/-- R98, R200: `v = WDATA[WMAX−1:0]`. -/
def writeValue (w : WidthClass) (wdata : Data) : Data := (wdata.setWidth (classMax w)).setWidth 64

end Sys2Proof.Machine
end

