-- ==== Sys2Proof/Machine/Field.lean ====
section
/-! DEFINITION. The field primitive (40_field_primitive.md, R130 to R138): reads and writes of 1 to 8
bits at any bit position, and their composition to 16, 32 and 64 bits. None of these checks its
arguments (R141). -/

namespace Sys2Proof.Machine

/-- R130: `mask(n) = (1 << n) − 1`, for `n ≤ 8`. -/
def byteMask (n : Nat) : Byte := BitVec.ofNat 8 (2 ^ n - 1)

/-- R131, R132: `ByteRead(p, n)`. -/
def byteRead (m : Memory) (p n : Nat) : BitVec 8 :=
  let byteIndex := p / 8
  let localOffset := p % 8
  let bitSum := n + localOffset
  if bitSum ≤ 8 then
    (Memory.get m byteIndex >>> (8 - bitSum)) &&& byteMask n
  else
    let hi := Memory.get m byteIndex &&& byteMask (8 - localOffset)
    let lo := Memory.get m (byteIndex + 1) >>> (16 - bitSum)
    (hi <<< (bitSum - 8)) ||| lo

/-- R133, R134: `ByteWrite(p, n, v)`. -/
def byteWrite (m : Memory) (p n : Nat) (v : BitVec 8) : Memory :=
  let byteIndex := p / 8
  let localOffset := p % 8
  let bitSum := n + localOffset
  if bitSum ≤ 8 then
    let valueMask := byteMask n
    let bufferMask := ~~~(valueMask <<< (8 - bitSum))
    Memory.set m byteIndex
      ((Memory.get m byteIndex &&& bufferMask) ||| ((v &&& valueMask) <<< (8 - bitSum)))
  else
    let w := v &&& byteMask n
    let hi := w >>> (bitSum - 8)
    let lo := w &&& byteMask (bitSum - 8)
    let first := Memory.set m byteIndex
      ((Memory.get m byteIndex &&& ~~~(byteMask (8 - localOffset))) ||| hi)
    Memory.set first (byteIndex + 1)
      ((Memory.get first (byteIndex + 1) &&& byteMask (16 - bitSum)) ||| (lo <<< (16 - bitSum)))

/-- R135: `ShortRead(p, n)`. -/
def shortRead (m : Memory) (p n : Nat) : BitVec 16 :=
  if n ≤ 8 then (byteRead m p n).setWidth 16
  else ((byteRead m p (n - 8)).setWidth 16 <<< 8) ||| (byteRead m (p + n - 8) 8).setWidth 16

/-- R135: `ShortWrite(p, n, v)`, the high chunk first. -/
def shortWrite (m : Memory) (p n : Nat) (v : BitVec 16) : Memory :=
  if n ≤ 8 then byteWrite m p n (v.extractLsb' 0 8)
  else byteWrite (byteWrite m p (n - 8) (v.extractLsb' 8 8)) (p + n - 8) 8 (v.extractLsb' 0 8)

/-- R136: `IntRead(p, n)`. -/
def intRead (m : Memory) (p n : Nat) : BitVec 32 :=
  if n ≤ 16 then (shortRead m p n).setWidth 32
  else ((shortRead m p (n - 16)).setWidth 32 <<< 16) ||| (shortRead m (p + n - 16) 16).setWidth 32

/-- R136: `IntWrite(p, n, v)`, the high chunk first. -/
def intWrite (m : Memory) (p n : Nat) (v : BitVec 32) : Memory :=
  if n ≤ 16 then shortWrite m p n (v.extractLsb' 0 16)
  else shortWrite (shortWrite m p (n - 16) (v.extractLsb' 16 16)) (p + n - 16) 16 (v.extractLsb' 0 16)

/-- R137: `LongRead(p, n)`. -/
def longRead (m : Memory) (p n : Nat) : BitVec 64 :=
  if n ≤ 32 then (intRead m p n).setWidth 64
  else ((intRead m p (n - 32)).setWidth 64 <<< 32) ||| (intRead m (p + n - 32) 32).setWidth 64

/-- R137: `LongWrite(p, n, v)`, the high chunk first. -/
def longWrite (m : Memory) (p n : Nat) (v : BitVec 64) : Memory :=
  if n ≤ 32 then intWrite m p n (v.extractLsb' 0 32)
  else intWrite (intWrite m p (n - 32) (v.extractLsb' 32 32)) (p + n - 32) 32 (v.extractLsb' 0 32)

/-- R138: `BitRead(p)`, the byte primitive with `n = 1`. -/
def bitRead (m : Memory) (p : Nat) : BitVec 8 := byteRead m p 1

/-- R138: `BitWrite(p, b)`, the byte primitive with `n = 1`. -/
def bitWrite (m : Memory) (p : Nat) (b : BitVec 8) : Memory := byteWrite m p 1 b

/-- R99, R160: `FieldRead_W`, zero-extended to 64 bits. -/
def fieldRead (w : WidthClass) (m : Memory) (p n : Nat) : Data :=
  match w with
  | .bit => (bitRead m p).setWidth 64
  | .byte => (byteRead m p n).setWidth 64
  | .short => (shortRead m p n).setWidth 64
  | .int => (intRead m p n).setWidth 64
  | .long => longRead m p n

/-- R200: `FieldWrite_W`. -/
def fieldWrite (w : WidthClass) (m : Memory) (p n : Nat) (v : Data) : Memory :=
  match w with
  | .bit => bitWrite m p (v.setWidth 8)
  | .byte => byteWrite m p n (v.setWidth 8)
  | .short => shortWrite m p n (v.setWidth 16)
  | .int => intWrite m p n (v.setWidth 32)
  | .long => longWrite m p n v

end Sys2Proof.Machine
end

