-- ==== Sys2Proof/Machine/Access.lean ====
section
/-! DEFINITION. The shared operations of the commands: the read-side access (R160), the write-side
access (R200), the checked write of the position register (R243) and the answer of a property (R39). -/

namespace Sys2Proof.Machine

/-- R160, R200: `if V = 1: pos <- pos + N`. -/
def advanceBy (v : Motion) (n : Nat) (s : State) : State :=
  match v with
  | .stay => s
  | .advance => s.setPosition (s.position + n)

/-- R160, with R101 and R277: a read-side access of class `w`. `N > BL − pos` is written as
`BL < pos + N`. -/
def readAccess (w : WidthClass) (v : Motion) (t : Variant) (a : Int) (s : State) :
    Host.Outcome State Fault Refusal :=
  match s.kind with
  | .writer => .next (raise .errIllegal s)
  | .reader =>
    match bitCount w a with
    | none => .next (raise .errRange s)
    | some n =>
      if s.bitLength < s.position + n then .next (raise (exhausted t) s)
      else if s.holdsField s.position n then
        .next (respond .ok (fieldRead w s.buf s.position n) (advanceBy v n s))
      else .fault .outsideBuffer

/-- R200, with R101 and R277: a write-side access of class `w`. -/
def writeAccess (w : WidthClass) (v : Motion) (t : Variant) (wdata : Data) (a : Int) (s : State) :
    Host.Outcome State Fault Refusal :=
  match s.kind with
  | .reader => .next (raise .errIllegal s)
  | .writer =>
    match bitCount w a with
    | none => .next (raise .errRange s)
    | some n =>
      if s.bitLength < s.position + n then .next (raise (exhausted t) s)
      else if s.holdsField s.position n then
        .next (respond .ok 0 (advanceBy v n
          (s.setBuffer (fieldWrite w s.buf s.position n (writeValue w wdata)))))
      else .fault .outsideBuffer

/-- R240, R243, R245: `pos <- p` where `0 ≤ p ≤ BL`, else ERR_RANGE. -/
def moveTo (p : Int) (s : State) : Host.Outcome State Fault Refusal :=
  if p < 0 ∨ (s.bitLength : Int) < p then .next (raise .errRange s)
  else .next (respond .ok 0 (s.setPosition p.toNat))

/-- R39, R99: a get operation returns the property's value zero-extended. -/
def answer (value : Nat) (s : State) : Host.Outcome State Fault Refusal :=
  .next (respond .ok (BitVec.ofNat 64 value) s)

end Sys2Proof.Machine
end

