-- ==== Sys2Proof/Machine/Control.lean ====
section
/-! DEFINITION. Construction and the seven property commands (43_control.md, R240 to R247). Both kinds
accept them. -/

namespace Sys2Proof.Machine

/-- R240: New. The buffer is the bound one, so only `pos` is set. -/
def execNew (offset : Int) (s : State) : Host.Outcome State Fault Refusal :=
  moveTo offset s

/-- R241: GetBitLength. -/
def execGetBitLength (s : State) : Host.Outcome State Fault Refusal :=
  answer s.bitLength s

/-- R242: GetBitPosition. -/
def execGetBitPosition (s : State) : Host.Outcome State Fault Refusal :=
  answer s.position s

/-- R243: SetBitPosition. -/
def execSetBitPosition (position : Int) (s : State) : Host.Outcome State Fault Refusal :=
  moveTo position s

/-- R244: GetBytePosition. -/
def execGetBytePosition (s : State) : Host.Outcome State Fault Refusal :=
  answer s.bytePosition s

/-- R245: SetBytePosition. The product `8 · a` is exact and never wraps (D14). -/
def execSetBytePosition (bytePosition : Int) (s : State) : Host.Outcome State Fault Refusal :=
  moveTo (8 * bytePosition) s

/-- R246: GetBitOffset. -/
def execGetBitOffset (s : State) : Host.Outcome State Fault Refusal :=
  answer s.bitOffset s

/-- R247: GetRemainingBits. -/
def execGetRemainingBits (s : State) : Host.Outcome State Fault Refusal :=
  answer s.remainingBits s

end Sys2Proof.Machine
end

