-- ==== Sys2Proof/Machine/Reader.lean ====
section
/-! DEFINITION. The 20 read-side commands (41_reader.md, R161 to R180). -/

namespace Sys2Proof.Machine

/-- R161: TryPeekBit. It takes no count (R97). -/
def execTryPeekBit (s : State) : Host.Outcome State Fault Refusal :=
  readAccess .bit .stay .try_ 1 s

/-- R162: PeekBit. It takes no count (R97). -/
def execPeekBit (s : State) : Host.Outcome State Fault Refusal :=
  readAccess .bit .stay .throwing 1 s

/-- R163: TryReadBit. It takes no count (R97). -/
def execTryReadBit (s : State) : Host.Outcome State Fault Refusal :=
  readAccess .bit .advance .try_ 1 s

/-- R164: ReadBit. It takes no count (R97). -/
def execReadBit (s : State) : Host.Outcome State Fault Refusal :=
  readAccess .bit .advance .throwing 1 s

/-- R165: TryPeekByte. -/
def execTryPeekByte (count : Int) (s : State) : Host.Outcome State Fault Refusal :=
  readAccess .byte .stay .try_ count s

/-- R166: PeekByte. -/
def execPeekByte (count : Int) (s : State) : Host.Outcome State Fault Refusal :=
  readAccess .byte .stay .throwing count s

/-- R167: TryReadByte. -/
def execTryReadByte (count : Int) (s : State) : Host.Outcome State Fault Refusal :=
  readAccess .byte .advance .try_ count s

/-- R168: ReadByte. -/
def execReadByte (count : Int) (s : State) : Host.Outcome State Fault Refusal :=
  readAccess .byte .advance .throwing count s

/-- R169: TryPeekShort. -/
def execTryPeekShort (count : Int) (s : State) : Host.Outcome State Fault Refusal :=
  readAccess .short .stay .try_ count s

/-- R170: PeekShort. -/
def execPeekShort (count : Int) (s : State) : Host.Outcome State Fault Refusal :=
  readAccess .short .stay .throwing count s

/-- R171: TryReadShort. -/
def execTryReadShort (count : Int) (s : State) : Host.Outcome State Fault Refusal :=
  readAccess .short .advance .try_ count s

/-- R172: ReadShort. -/
def execReadShort (count : Int) (s : State) : Host.Outcome State Fault Refusal :=
  readAccess .short .advance .throwing count s

/-- R173: TryPeekInt. -/
def execTryPeekInt (count : Int) (s : State) : Host.Outcome State Fault Refusal :=
  readAccess .int .stay .try_ count s

/-- R174: PeekInt. -/
def execPeekInt (count : Int) (s : State) : Host.Outcome State Fault Refusal :=
  readAccess .int .stay .throwing count s

/-- R175: TryReadInt. -/
def execTryReadInt (count : Int) (s : State) : Host.Outcome State Fault Refusal :=
  readAccess .int .advance .try_ count s

/-- R176: ReadInt. -/
def execReadInt (count : Int) (s : State) : Host.Outcome State Fault Refusal :=
  readAccess .int .advance .throwing count s

/-- R177: TryPeekLong. -/
def execTryPeekLong (count : Int) (s : State) : Host.Outcome State Fault Refusal :=
  readAccess .long .stay .try_ count s

/-- R178: PeekLong. -/
def execPeekLong (count : Int) (s : State) : Host.Outcome State Fault Refusal :=
  readAccess .long .stay .throwing count s

/-- R179: TryReadLong. -/
def execTryReadLong (count : Int) (s : State) : Host.Outcome State Fault Refusal :=
  readAccess .long .advance .try_ count s

/-- R180: ReadLong. -/
def execReadLong (count : Int) (s : State) : Host.Outcome State Fault Refusal :=
  readAccess .long .advance .throwing count s

end Sys2Proof.Machine
end

