-- ==== Sys2Proof/Machine/Writer.lean ====
section
/-! DEFINITION. The 20 write-side commands (42_writer.md, R201 to R220). -/

namespace Sys2Proof.Machine

/-- R201: TryPokeBit. It takes no count (R97). -/
def execTryPokeBit (value : Data) (s : State) : Host.Outcome State Fault Refusal :=
  writeAccess .bit .stay .try_ value 1 s

/-- R202: PokeBit. It takes no count (R97). -/
def execPokeBit (value : Data) (s : State) : Host.Outcome State Fault Refusal :=
  writeAccess .bit .stay .throwing value 1 s

/-- R203: TryWriteBit. It takes no count (R97). -/
def execTryWriteBit (value : Data) (s : State) : Host.Outcome State Fault Refusal :=
  writeAccess .bit .advance .try_ value 1 s

/-- R204: WriteBit. It takes no count (R97). -/
def execWriteBit (value : Data) (s : State) : Host.Outcome State Fault Refusal :=
  writeAccess .bit .advance .throwing value 1 s

/-- R205: TryPokeByte. -/
def execTryPokeByte (value : Data) (count : Int) (s : State) :
    Host.Outcome State Fault Refusal :=
  writeAccess .byte .stay .try_ value count s

/-- R206: PokeByte. -/
def execPokeByte (value : Data) (count : Int) (s : State) :
    Host.Outcome State Fault Refusal :=
  writeAccess .byte .stay .throwing value count s

/-- R207: TryWriteByte. -/
def execTryWriteByte (value : Data) (count : Int) (s : State) :
    Host.Outcome State Fault Refusal :=
  writeAccess .byte .advance .try_ value count s

/-- R208: WriteByte. -/
def execWriteByte (value : Data) (count : Int) (s : State) :
    Host.Outcome State Fault Refusal :=
  writeAccess .byte .advance .throwing value count s

/-- R209: TryPokeShort. -/
def execTryPokeShort (value : Data) (count : Int) (s : State) :
    Host.Outcome State Fault Refusal :=
  writeAccess .short .stay .try_ value count s

/-- R210: PokeShort. -/
def execPokeShort (value : Data) (count : Int) (s : State) :
    Host.Outcome State Fault Refusal :=
  writeAccess .short .stay .throwing value count s

/-- R211: TryWriteShort. -/
def execTryWriteShort (value : Data) (count : Int) (s : State) :
    Host.Outcome State Fault Refusal :=
  writeAccess .short .advance .try_ value count s

/-- R212: WriteShort. -/
def execWriteShort (value : Data) (count : Int) (s : State) :
    Host.Outcome State Fault Refusal :=
  writeAccess .short .advance .throwing value count s

/-- R213: TryPokeInt. -/
def execTryPokeInt (value : Data) (count : Int) (s : State) :
    Host.Outcome State Fault Refusal :=
  writeAccess .int .stay .try_ value count s

/-- R214: PokeInt. -/
def execPokeInt (value : Data) (count : Int) (s : State) :
    Host.Outcome State Fault Refusal :=
  writeAccess .int .stay .throwing value count s

/-- R215: TryWriteInt. -/
def execTryWriteInt (value : Data) (count : Int) (s : State) :
    Host.Outcome State Fault Refusal :=
  writeAccess .int .advance .try_ value count s

/-- R216: WriteInt. -/
def execWriteInt (value : Data) (count : Int) (s : State) :
    Host.Outcome State Fault Refusal :=
  writeAccess .int .advance .throwing value count s

/-- R217: TryPokeLong. -/
def execTryPokeLong (value : Data) (count : Int) (s : State) :
    Host.Outcome State Fault Refusal :=
  writeAccess .long .stay .try_ value count s

/-- R218: PokeLong. -/
def execPokeLong (value : Data) (count : Int) (s : State) :
    Host.Outcome State Fault Refusal :=
  writeAccess .long .stay .throwing value count s

/-- R219: TryWriteLong. -/
def execTryWriteLong (value : Data) (count : Int) (s : State) :
    Host.Outcome State Fault Refusal :=
  writeAccess .long .advance .try_ value count s

/-- R220: WriteLong. -/
def execWriteLong (value : Data) (count : Int) (s : State) :
    Host.Outcome State Fault Refusal :=
  writeAccess .long .advance .throwing value count s

end Sys2Proof.Machine
end

