-- ==== Sys2Proof/Machine/Dispatch.lean ====
section
/-! DEFINITION. The dispatch: one arm per command, each one direct call of its meaning. -/

namespace Sys2Proof.Machine

def exec (i : Instr) (s : State) : Host.Outcome State Fault Refusal :=
  match i with
  | .tryPeekBit => Sys2Proof.Machine.execTryPeekBit s
  | .peekBit => Sys2Proof.Machine.execPeekBit s
  | .tryReadBit => Sys2Proof.Machine.execTryReadBit s
  | .readBit => Sys2Proof.Machine.execReadBit s
  | .tryPeekByte count => Sys2Proof.Machine.execTryPeekByte count s
  | .peekByte count => Sys2Proof.Machine.execPeekByte count s
  | .tryReadByte count => Sys2Proof.Machine.execTryReadByte count s
  | .readByte count => Sys2Proof.Machine.execReadByte count s
  | .tryPeekShort count => Sys2Proof.Machine.execTryPeekShort count s
  | .peekShort count => Sys2Proof.Machine.execPeekShort count s
  | .tryReadShort count => Sys2Proof.Machine.execTryReadShort count s
  | .readShort count => Sys2Proof.Machine.execReadShort count s
  | .tryPeekInt count => Sys2Proof.Machine.execTryPeekInt count s
  | .peekInt count => Sys2Proof.Machine.execPeekInt count s
  | .tryReadInt count => Sys2Proof.Machine.execTryReadInt count s
  | .readInt count => Sys2Proof.Machine.execReadInt count s
  | .tryPeekLong count => Sys2Proof.Machine.execTryPeekLong count s
  | .peekLong count => Sys2Proof.Machine.execPeekLong count s
  | .tryReadLong count => Sys2Proof.Machine.execTryReadLong count s
  | .readLong count => Sys2Proof.Machine.execReadLong count s
  | .tryPokeBit value => Sys2Proof.Machine.execTryPokeBit value s
  | .pokeBit value => Sys2Proof.Machine.execPokeBit value s
  | .tryWriteBit value => Sys2Proof.Machine.execTryWriteBit value s
  | .writeBit value => Sys2Proof.Machine.execWriteBit value s
  | .tryPokeByte value count => Sys2Proof.Machine.execTryPokeByte value count s
  | .pokeByte value count => Sys2Proof.Machine.execPokeByte value count s
  | .tryWriteByte value count => Sys2Proof.Machine.execTryWriteByte value count s
  | .writeByte value count => Sys2Proof.Machine.execWriteByte value count s
  | .tryPokeShort value count => Sys2Proof.Machine.execTryPokeShort value count s
  | .pokeShort value count => Sys2Proof.Machine.execPokeShort value count s
  | .tryWriteShort value count => Sys2Proof.Machine.execTryWriteShort value count s
  | .writeShort value count => Sys2Proof.Machine.execWriteShort value count s
  | .tryPokeInt value count => Sys2Proof.Machine.execTryPokeInt value count s
  | .pokeInt value count => Sys2Proof.Machine.execPokeInt value count s
  | .tryWriteInt value count => Sys2Proof.Machine.execTryWriteInt value count s
  | .writeInt value count => Sys2Proof.Machine.execWriteInt value count s
  | .tryPokeLong value count => Sys2Proof.Machine.execTryPokeLong value count s
  | .pokeLong value count => Sys2Proof.Machine.execPokeLong value count s
  | .tryWriteLong value count => Sys2Proof.Machine.execTryWriteLong value count s
  | .writeLong value count => Sys2Proof.Machine.execWriteLong value count s
  | .new offset => Sys2Proof.Machine.execNew offset s
  | .getBitLength => Sys2Proof.Machine.execGetBitLength s
  | .getBitPosition => Sys2Proof.Machine.execGetBitPosition s
  | .setBitPosition position => Sys2Proof.Machine.execSetBitPosition position s
  | .getBytePosition => Sys2Proof.Machine.execGetBytePosition s
  | .setBytePosition bytePosition => Sys2Proof.Machine.execSetBytePosition bytePosition s
  | .getBitOffset => Sys2Proof.Machine.execGetBitOffset s
  | .getRemainingBits => Sys2Proof.Machine.execGetRemainingBits s

end Sys2Proof.Machine
end

