-- ==== Sys2Proof/WellFormed.lean ====
section
/-! DEFINITION. Which terms of `Instr` are commands: the ones whose signed operand fits the 32-bit
ARG field (R11, R97). The bound of a count or a position is no part of this: a command with such an
operand exists and answers ERR_RANGE (R271). -/

namespace Sys2Proof

/-- R97: `a` lies in `[−2^31, 2^31 − 1]`, so that ARG can carry it. -/
def argFits (a : Int) : Bool := decide (-2147483648 ≤ a ∧ a ≤ 2147483647)

/-- The command can be sent: its signed operand, if it has one, fits ARG. -/
def Instr.wellFormed : Instr → Bool
  | .tryPeekBit => true
  | .peekBit => true
  | .tryReadBit => true
  | .readBit => true
  | .tryPeekByte count => argFits count
  | .peekByte count => argFits count
  | .tryReadByte count => argFits count
  | .readByte count => argFits count
  | .tryPeekShort count => argFits count
  | .peekShort count => argFits count
  | .tryReadShort count => argFits count
  | .readShort count => argFits count
  | .tryPeekInt count => argFits count
  | .peekInt count => argFits count
  | .tryReadInt count => argFits count
  | .readInt count => argFits count
  | .tryPeekLong count => argFits count
  | .peekLong count => argFits count
  | .tryReadLong count => argFits count
  | .readLong count => argFits count
  | .tryPokeBit _ => true
  | .pokeBit _ => true
  | .tryWriteBit _ => true
  | .writeBit _ => true
  | .tryPokeByte _ count => argFits count
  | .pokeByte _ count => argFits count
  | .tryWriteByte _ count => argFits count
  | .writeByte _ count => argFits count
  | .tryPokeShort _ count => argFits count
  | .pokeShort _ count => argFits count
  | .tryWriteShort _ count => argFits count
  | .writeShort _ count => argFits count
  | .tryPokeInt _ count => argFits count
  | .pokeInt _ count => argFits count
  | .tryWriteInt _ count => argFits count
  | .writeInt _ count => argFits count
  | .tryPokeLong _ count => argFits count
  | .pokeLong _ count => argFits count
  | .tryWriteLong _ count => argFits count
  | .writeLong _ count => argFits count
  | .new offset => argFits offset
  | .getBitLength => true
  | .getBitPosition => true
  | .setBitPosition position => argFits position
  | .getBytePosition => true
  | .setBytePosition bytePosition => argFits bytePosition
  | .getBitOffset => true
  | .getRemainingBits => true

end Sys2Proof
end

