-- ==== Sys2Proof/Decode.lean ====
section
/-! DEFINITION. From a request to a command and back: the OP byte's formats (R92 to R96), operand
assembly (R97), the illegal values (R100), and the encoder, which assembles an unused field as 0
(R104). Decoding is total (R102, R103); whether the unit's KIND accepts the command (R101) is checked
by the command's meaning. -/

namespace Sys2Proof

/-- R100: why an OP value is illegal. -/
inductive Illegal where
  /-- format A with `OP[3] = 1` -/
  | formatABit3
  /-- format A with `W ∈ {101, 110, 111}` -/
  | formatAWidth
  /-- format P with `OP[6:3] ≠ 0000` -/
  | formatPReserved
  deriving DecidableEq, Repr

/-- R94: the width class field `W`; three of its values are reserved. -/
def widthOfField (w : BitVec 3) : Option WidthClass :=
  match w.toNat with
  | 0 => some .bit
  | 1 => some .byte
  | 2 => some .short
  | 3 => some .int
  | 4 => some .long
  | _ => none

/-- R94: the number of a width class. -/
def fieldOfWidth : WidthClass → BitVec 3
  | .bit => 0
  | .byte => 1
  | .short => 2
  | .int => 3
  | .long => 4

/-- R93, R95: the read-side commands by `V`, `T` and `W`. -/
def readSide (v t : Bool) (w : WidthClass) (a : Int) : Instr :=
  match v, t, w with
  | false, false, .bit => .tryPeekBit
  | false, true, .bit => .peekBit
  | true, false, .bit => .tryReadBit
  | true, true, .bit => .readBit
  | false, false, .byte => .tryPeekByte a
  | false, true, .byte => .peekByte a
  | true, false, .byte => .tryReadByte a
  | true, true, .byte => .readByte a
  | false, false, .short => .tryPeekShort a
  | false, true, .short => .peekShort a
  | true, false, .short => .tryReadShort a
  | true, true, .short => .readShort a
  | false, false, .int => .tryPeekInt a
  | false, true, .int => .peekInt a
  | true, false, .int => .tryReadInt a
  | true, true, .int => .readInt a
  | false, false, .long => .tryPeekLong a
  | false, true, .long => .peekLong a
  | true, false, .long => .tryReadLong a
  | true, true, .long => .readLong a

/-- R93, R95: the write-side commands by `V`, `T` and `W`. -/
def writeSide (v t : Bool) (w : WidthClass) (value : Data) (a : Int) : Instr :=
  match v, t, w with
  | false, false, .bit => .tryPokeBit value
  | false, true, .bit => .pokeBit value
  | true, false, .bit => .tryWriteBit value
  | true, true, .bit => .writeBit value
  | false, false, .byte => .tryPokeByte value a
  | false, true, .byte => .pokeByte value a
  | true, false, .byte => .tryWriteByte value a
  | true, true, .byte => .writeByte value a
  | false, false, .short => .tryPokeShort value a
  | false, true, .short => .pokeShort value a
  | true, false, .short => .tryWriteShort value a
  | true, true, .short => .writeShort value a
  | false, false, .int => .tryPokeInt value a
  | false, true, .int => .pokeInt value a
  | true, false, .int => .tryWriteInt value a
  | true, true, .int => .writeInt value a
  | false, false, .long => .tryPokeLong value a
  | false, true, .long => .pokeLong value a
  | true, false, .long => .tryWriteLong value a
  | true, true, .long => .writeLong value a

/-- R96: the construction and property commands by selector. -/
def propertySide (sel : BitVec 3) (a : Int) : Instr :=
  match sel.toNat with
  | 0 => .new a
  | 1 => .getBitLength
  | 2 => .getBitPosition
  | 3 => .setBitPosition a
  | 4 => .getBytePosition
  | 5 => .setBytePosition a
  | 6 => .getBitOffset
  | _ => .getRemainingBits

/-- R97: ARG as the signed integer `a = ARG[31] ? ARG − 2^32 : ARG`. -/
def signedArg (arg : Arg) : Int :=
  if arg.getLsbD 31 then (arg.toNat : Int) - 4294967296 else arg.toNat

/-- R92 to R103: a request's command, or the reason its OP value is illegal. -/
def decode (r : Request) : Except Illegal Instr :=
  let a := signedArg r.arg
  if r.op.getLsbD 7 then
    if r.op.extractLsb 6 3 = 0 then .ok (propertySide (r.op.extractLsb 2 0) a)
    else .error .formatPReserved
  else if r.op.getLsbD 3 then .error .formatABit3
  else
    match widthOfField (r.op.extractLsb 2 0) with
    | none => .error .formatAWidth
    | some w =>
      if r.op.getLsbD 6 then .ok (writeSide (r.op.getLsbD 5) (r.op.getLsbD 4) w r.wdata a)
      else .ok (readSide (r.op.getLsbD 5) (r.op.getLsbD 4) w a)

/-- R93: a format-A OP byte, `0 S V T 0 W`. -/
def opA (s v t : Bool) (w : WidthClass) : Byte :=
  0#1 ++ BitVec.ofBool s ++ BitVec.ofBool v ++ BitVec.ofBool t ++ 0#1 ++ fieldOfWidth w

/-- R96: a format-P OP byte, `1 0000` and the selector. -/
def opP (sel : BitVec 3) : Byte := 1#1 ++ 0#4 ++ sel

/-- R97: the 32-bit two's complement ARG field that carries `a`. -/
def argOf (a : Int) : Arg := BitVec.ofInt 32 a

/-- R93, R96, R104: the request that carries a command; a field the command does not use is 0. -/
def encode : Instr → Request
  | .tryPeekBit => ⟨opA false false false .bit, 0, 0⟩
  | .peekBit => ⟨opA false false true .bit, 0, 0⟩
  | .tryReadBit => ⟨opA false true false .bit, 0, 0⟩
  | .readBit => ⟨opA false true true .bit, 0, 0⟩
  | .tryPeekByte count => ⟨opA false false false .byte, argOf count, 0⟩
  | .peekByte count => ⟨opA false false true .byte, argOf count, 0⟩
  | .tryReadByte count => ⟨opA false true false .byte, argOf count, 0⟩
  | .readByte count => ⟨opA false true true .byte, argOf count, 0⟩
  | .tryPeekShort count => ⟨opA false false false .short, argOf count, 0⟩
  | .peekShort count => ⟨opA false false true .short, argOf count, 0⟩
  | .tryReadShort count => ⟨opA false true false .short, argOf count, 0⟩
  | .readShort count => ⟨opA false true true .short, argOf count, 0⟩
  | .tryPeekInt count => ⟨opA false false false .int, argOf count, 0⟩
  | .peekInt count => ⟨opA false false true .int, argOf count, 0⟩
  | .tryReadInt count => ⟨opA false true false .int, argOf count, 0⟩
  | .readInt count => ⟨opA false true true .int, argOf count, 0⟩
  | .tryPeekLong count => ⟨opA false false false .long, argOf count, 0⟩
  | .peekLong count => ⟨opA false false true .long, argOf count, 0⟩
  | .tryReadLong count => ⟨opA false true false .long, argOf count, 0⟩
  | .readLong count => ⟨opA false true true .long, argOf count, 0⟩
  | .tryPokeBit value => ⟨opA true false false .bit, 0, value⟩
  | .pokeBit value => ⟨opA true false true .bit, 0, value⟩
  | .tryWriteBit value => ⟨opA true true false .bit, 0, value⟩
  | .writeBit value => ⟨opA true true true .bit, 0, value⟩
  | .tryPokeByte value count => ⟨opA true false false .byte, argOf count, value⟩
  | .pokeByte value count => ⟨opA true false true .byte, argOf count, value⟩
  | .tryWriteByte value count => ⟨opA true true false .byte, argOf count, value⟩
  | .writeByte value count => ⟨opA true true true .byte, argOf count, value⟩
  | .tryPokeShort value count => ⟨opA true false false .short, argOf count, value⟩
  | .pokeShort value count => ⟨opA true false true .short, argOf count, value⟩
  | .tryWriteShort value count => ⟨opA true true false .short, argOf count, value⟩
  | .writeShort value count => ⟨opA true true true .short, argOf count, value⟩
  | .tryPokeInt value count => ⟨opA true false false .int, argOf count, value⟩
  | .pokeInt value count => ⟨opA true false true .int, argOf count, value⟩
  | .tryWriteInt value count => ⟨opA true true false .int, argOf count, value⟩
  | .writeInt value count => ⟨opA true true true .int, argOf count, value⟩
  | .tryPokeLong value count => ⟨opA true false false .long, argOf count, value⟩
  | .pokeLong value count => ⟨opA true false true .long, argOf count, value⟩
  | .tryWriteLong value count => ⟨opA true true false .long, argOf count, value⟩
  | .writeLong value count => ⟨opA true true true .long, argOf count, value⟩
  | .new offset => ⟨opP 0, argOf offset, 0⟩
  | .getBitLength => ⟨opP 1, 0, 0⟩
  | .getBitPosition => ⟨opP 2, 0, 0⟩
  | .setBitPosition position => ⟨opP 3, argOf position, 0⟩
  | .getBytePosition => ⟨opP 4, 0, 0⟩
  | .setBytePosition bytePosition => ⟨opP 5, argOf bytePosition, 0⟩
  | .getBitOffset => ⟨opP 6, 0, 0⟩
  | .getRemainingBits => ⟨opP 7, 0, 0⟩

/-- DESIGN CHOICE (log entry 3): the request's fields as one 104-bit word, `OP` in bits 7..0, `ARG` in
bits 39..8 and `WDATA` in bits 103..40 (R90 and R102 give fixed fields and no bus layout). -/
def Request.ofWord (w : BitVec 104) : Request :=
  ⟨w.extractLsb' 0 8, w.extractLsb' 8 32, w.extractLsb' 40 64⟩

/-- The word of a request, laid out as `Request.ofWord` reads it (log entry 3). -/
def Request.toWord (r : Request) : BitVec 104 := r.wdata ++ r.arg ++ r.op

/-- The request whose low `nbits` bits are those of `w` and whose other bits are 0. -/
def Request.ofTableWord (nbits w : Nat) : Request :=
  Request.ofWord (BitVec.ofNat 104 (w % 2 ^ nbits))

/-- The command that `decode` reads from a word of `nbits` bits, and none where OP is illegal. -/
def decodeTableWord (nbits w : Nat) : Option Instr :=
  match decode (Request.ofTableWord nbits w) with
  | .ok i => some i
  | .error _ => none

end Sys2Proof
end

