-- ==== Sys2Proof/Machine/Interface.lean ====
section
/-! DEFINITION. The command interface: the unit takes the next event of the outside world (R12, R300 to
R306) and, for a command, decodes it (R277, step 1). The block fetches no instructions (R74). -/

namespace Sys2Proof.Machine

/-- What taking an event leaves to do. -/
inductive Taken where
  /-- nothing: the event is over, or there was none -/
  | done (s : State)
  /-- the command is to be run -/
  | run (i : Instr) (s : State)
  /-- the run has no meaning from here on -/
  | refuse (r : Refusal)
  deriving DecidableEq, Repr

/-- R100, R274, R303: a command is refused after the buffer is withdrawn, answers ERR_ILLEGAL if its
OP is illegal, and is run otherwise. -/
def takeCommand (r : Request) (s : State) : Taken :=
  if s.lent then
    match decode r with
    | .ok i => .run i s
    | .error _ => .done (raise .errIllegal s)
  else .refuse .bufferWithdrawn

/-- R302: a buffer is bound if it has exactly `L` bytes. -/
def takeBuffer (bytes : List Byte) (s : State) : Taken :=
  if bytes.length = s.len.val then .done (bindBuffer bytes s) else .refuse .bufferLength

/-- R72, R306: another agent may touch the buffer only while the unit does not hold it. -/
def takeStrayAccess (s : State) : Taken :=
  if s.lent then .refuse .foreignAccess else .done s

/-- R37, R71: the unit takes the host's events in the order of issue. With no event it is idle and
keeps all its state (R287). -/
def takeEvent (s : State) : Taken :=
  match s.host with
  | [] => .done s
  | .command r :: _ => takeCommand r (dropEvent s)
  | .reset :: _ => .done (resetUnit (dropEvent s))
  | .lend bytes :: _ => takeBuffer bytes (dropEvent s)
  | .withdraw :: _ => .done (releaseBuffer (dropEvent s))
  | .strayAccess :: _ => takeStrayAccess (dropEvent s)
  | .strayCommand _ :: _ => .refuse .secondIssuer

/-- R12: the host issues this request next, before all it was going to do. -/
def issueNext (r : Request) (s : State) : State := { s with host := .command r :: s.host }

end Sys2Proof.Machine
end

