-- ==== Sys2Proof/Machine/Step.lean ====
section
/-! DEFINITION. One step: the unit takes one event of the host, and runs the command if it is one
(R17, R71, R308). -/

namespace Sys2Proof.Machine

/-- R17, R308: each command is one atomic step. -/
def step (s : State) : Host.Outcome State Fault Refusal :=
  match takeEvent s with
  | .done t => .next t
  | .run i t => exec i t
  | .refuse r => .refused r

/-- The request of the given word (log entry 3) is the host's next event. -/
def State.withFetchWord (s : State) (nbits w : Nat) : State :=
  issueNext (Request.ofTableWord nbits w) s

end Sys2Proof.Machine
end

