-- ==== Sys2Proof/Machine/Assembler.lean ====
section
/-! DEFINITION. The spec's assembler (R104, R105): one command a line, as text or already cut into its
parts, with the pseudo-instructions that leave a count or an offset out. -/

namespace Sys2Proof.Machine

/-- R104: one line of assembler, cut into its parts. `advance` and `throwing` are the fields `V` and
`T` that the mnemonic's prefix names (R95). -/
inductive AsmLine where
  | readSide (advance throwing : Bool) (w : WidthClass) (count : Option Int)
  | writeSide (advance throwing : Bool) (w : WidthClass) (value : Nat) (count : Option Int)
  | new (offset : Option Int)
  | getBitLength
  | getBitPosition
  | setBitPosition (position : Int)
  | getBytePosition
  | setBytePosition (bytePosition : Int)
  | getBitOffset
  | getRemainingBits
  deriving DecidableEq, Repr

/-- R105: an omitted count is the class's full width. -/
def countOrDefault (w : WidthClass) (count : Option Int) : Int := count.getD (classMax w)

/-- R104: the command, if its signed operand fits ARG. -/
def ifArgFits (a : Int) (i : Instr) : Option Instr := if argFits a then some i else none

/-- R104, R105: the command a line stands for; none where an operand does not fit its field or a Bit
command is given a count. -/
def assemble : AsmLine → Option Instr
  | .readSide v t .bit none => some (Sys2Proof.readSide v t .bit 0)
  | .readSide _ _ .bit (some _) => none
  | .readSide v t w count =>
    ifArgFits (countOrDefault w count) (Sys2Proof.readSide v t w (countOrDefault w count))
  | .writeSide _ _ .bit _ (some _) => none
  | .writeSide v t w value count =>
    if value < 2 ^ 64 then
      ifArgFits (countOrDefault w count)
        (Sys2Proof.writeSide v t w (BitVec.ofNat 64 value) (countOrDefault w count))
    else none
  | .new offset => ifArgFits (offset.getD 0) (.new (offset.getD 0))
  | .getBitLength => some .getBitLength
  | .getBitPosition => some .getBitPosition
  | .setBitPosition position => ifArgFits position (.setBitPosition position)
  | .getBytePosition => some .getBytePosition
  | .setBytePosition bytePosition => ifArgFits bytePosition (.setBytePosition bytePosition)
  | .getBitOffset => some .getBitOffset
  | .getRemainingBits => some .getRemainingBits

/-- A word that has just ended, put before the words after it. -/
def putWord (word : List Char) (rest : List (List Char)) : List (List Char) :=
  if word.isEmpty then rest else word.reverse :: rest

/-- A line's words: blanks part them, and a comma is a word of its own. -/
def splitWords : List Char → List Char → List (List Char)
  | word, [] => putWord word []
  | word, ' ' :: cs => putWord word (splitWords [] cs)
  | word, ',' :: cs => putWord word ([','] :: splitWords [] cs)
  | word, c :: cs => splitWords (c :: word) cs

/-- The value of a digit, decimal or hexadecimal. -/
def digitValue (c : Char) : Option Nat :=
  if '0' ≤ c ∧ c ≤ '9' then some (c.toNat - '0'.toNat)
  else if 'a' ≤ c ∧ c ≤ 'f' then some (c.toNat - 'a'.toNat + 10)
  else if 'A' ≤ c ∧ c ≤ 'F' then some (c.toNat - 'A'.toNat + 10)
  else none

/-- The digits of a number in the given base, after those that make up `acc`. -/
def digitsFrom (base : Nat) : Nat → List Char → Option Nat
  | acc, [] => some acc
  | acc, c :: cs =>
    match digitValue c with
    | none => none
    | some d => if d < base then digitsFrom base (acc * base + d) cs else none

/-- R104: an unsigned integer, decimal or `0x` hexadecimal. -/
def parseNat : List Char → Option Nat
  | [] => none
  | ['0', 'x'] => none
  | '0' :: 'x' :: cs => digitsFrom 16 0 cs
  | cs => digitsFrom 10 0 cs

/-- R104: an integer, which may be negative. -/
def parseInt : List Char → Option Int
  | '-' :: cs => (parseNat cs).map (fun n => -(n : Int))
  | cs => (parseNat cs).map (fun n => (n : Int))

/-- R95: the four prefixes of a side in the order of the mode field `V T`. -/
def prefixFields (names : List String) : List (List Char × Bool × Bool) :=
  (names.map String.toList).zip [(false, false), (false, true), (true, false), (true, true)]

/-- R104: the class part of an access mnemonic. -/
def classOfName (name : List Char) : Option WidthClass :=
  [("Bit".toList, WidthClass.bit), ("Byte".toList, .byte), ("Short".toList, .short),
    ("Int".toList, .int), ("Long".toList, .long)].lookup name

/-- The class that follows one of the given prefixes in a mnemonic, with the prefix's `V` and `T`. -/
def accessOfName (names : List String) (name : List Char) : Option (Bool × Bool × WidthClass) :=
  (prefixFields names).findSome? fun (pre, v, t) =>
    if pre.isPrefixOf name then (classOfName (name.drop pre.length)).map fun w => (v, t, w) else none

/-- R104: the operands of a read-side line. -/
def readOperands (v t : Bool) (w : WidthClass) : List (List Char) → Option AsmLine
  | [] => some (.readSide v t w none)
  | [count] => (parseInt count).map fun n => .readSide v t w (some n)
  | _ => none

/-- R104: the operands of a write-side line, the value first. -/
def writeOperands (v t : Bool) (w : WidthClass) : List (List Char) → Option AsmLine
  | [value] => (parseNat value).map fun x => .writeSide v t w x none
  | [value, [','], count] =>
    match parseNat value, parseInt count with
    | some x, some n => some (.writeSide v t w x (some n))
    | _, _ => none
  | _ => none

/-- R104: a construction or property line. -/
def propertyLine (name : List Char) (operands : List (List Char)) : Option AsmLine :=
  match operands with
  | [] =>
    [("New".toList, AsmLine.new none), ("GetBitLength".toList, .getBitLength),
      ("GetBitPosition".toList, .getBitPosition), ("GetBytePosition".toList, .getBytePosition),
      ("GetBitOffset".toList, .getBitOffset), ("GetRemainingBits".toList, .getRemainingBits)].lookup name
  | [operand] =>
    match parseInt operand with
    | none => none
    | some n =>
      [("New".toList, AsmLine.new (some n)), ("SetBitPosition".toList, .setBitPosition n),
        ("SetBytePosition".toList, .setBytePosition n)].lookup name
  | _ => none

/-- R104: the parts of a line of text. -/
def parseLine (line : String) : Option AsmLine :=
  match splitWords [] line.toList with
  | [] => none
  | name :: operands =>
    match accessOfName ["TryPeek", "Peek", "TryRead", "Read"] name with
    | some (v, t, w) => readOperands v t w operands
    | none =>
      match accessOfName ["TryPoke", "Poke", "TryWrite", "Write"] name with
      | some (v, t, w) => writeOperands v t w operands
      | none => propertyLine name operands

/-- R104, R105: the request that a line of text assembles to. -/
def assembleText (line : String) : Option Request :=
  (parseLine line).bind fun parts => (assemble parts).map encode

end Sys2Proof.Machine
end

