-- ==== Sys2Proof/Safety.lean ====
section
/-! DEFINITION. What a state of the bit cursor always is: the invariant that every step keeps. -/

namespace Sys2Proof.Machine

/-- The buffer's list is canonical and names only the bytes `0 .. L − 1` (R60), and
`0 ≤ pos ≤ BL` (R31, R249). -/
def State.Inv (s : State) : Prop :=
  Memory.wf s.buf = true ∧ Memory.within s.len.val s.buf = true ∧ s.position ≤ s.bitLength

end Sys2Proof.Machine
end

