-- ==== Sys2Proof/Certificates/Slice0/Obligations.lean ====
section
/-! DEFINITION. The statements for the provers, each from a numbered rule of spec/ or from the sections
it names. `Sys2Proof.Claims` holds the words they share, written from the spec's text: closed forms
over the buffer's bits (R62) and over the fields of a request (R90, R93), not the machine's own
operations. -/

namespace Sys2Proof.Claims

open Sys2Proof.Machine

/-- R139: `Σ_{k=0}^{n−1} bit(p + k) · 2^(n−1−k)`. -/
def fieldValue (m : Memory) (p n : Nat) : Nat :=
  ∑ k ∈ Finset.range n, (Memory.bit m (p + k)).toNat * 2 ^ (n - 1 - k)

/-- R140: the bits `[p, p+n)` are those of `v`, its bit `n−1` first, and every other bit is as before. -/
def FieldWritten (m m' : Memory) (p n : Nat) (v : Data) : Prop :=
  (∀ k, k < n → Memory.bit m' (p + k) = v.getLsbD (n - 1 - k)) ∧
    ∀ q, q < p ∨ p + n ≤ q → Memory.bit m' q = Memory.bit m q

/-- R65: every byte outside `p / 8 .. (p + n − 1) / 8` is as before. -/
def OtherBytesKept (m m' : Memory) (p n : Nat) : Prop :=
  ∀ i, i < p / 8 ∨ (p + n - 1) / 8 < i → Memory.get m' i = Memory.get m i

/-- The state `s` with this response and no other change. -/
def responding (s : State) (status : Status) (rdata : Data) : State :=
  { s with response := some ⟨status, rdata⟩ }

/-- R33: RemainingBits as a mathematical integer (R15). -/
def remaining (s : State) : Int := (s.bitLength : Int) - s.position

/-- R272: FAIL for the Try variant, ERR_EOS for the throwing one. -/
def exhaustion (throwing : Bool) : Status := if throwing then .errEos else .fail

/-- R160, R200: `pos` after an access that moves it by `n`, or leaves it. -/
def positionAfter (s : State) (advances : Bool) (n : Nat) : BitVec 31 :=
  if advances then BitVec.ofNat 31 (s.position + n) else s.pos

/-- R101: a unit of this kind answers ERR_ILLEGAL and writes no state. -/
def IllegalOn (kind : Kind) (i : Instr) : Prop :=
  ∀ s : State, s.kind = kind → exec i s = .next (responding s .errIllegal 0)

/-- R271: a unit of this kind answers ERR_RANGE and writes no state. -/
def RangeErrorOn (kind : Kind) (i : Instr) : Prop :=
  ∀ s : State, s.kind = kind → exec i s = .next (responding s .errRange 0)

/-- R160 for a Reader and a count `n` that passed the width check: the exhaustion answer, or the
field's value with `pos` moved or not. Nothing else of the state changes. -/
def ReadsField (advances throwing : Bool) (n : Nat) (i : Instr) : Prop :=
  ∀ s : State, s.kind = .reader →
    (remaining s < n → exec i s = .next (responding s (exhaustion throwing) 0)) ∧
    ((n : Int) ≤ remaining s → exec i s = .next
      { s with
        pos := positionAfter s advances n
        response := some ⟨.ok, BitVec.ofNat 64 (fieldValue s.buf s.position n)⟩ })

/-- R200 for a Writer and a count `n` that passed the width check: the exhaustion answer, or the
buffer with exactly the field's bits changed and `pos` moved or not. Nothing else changes. -/
def WritesField (advances throwing : Bool) (n : Nat) (value : Data) (i : Instr) : Prop :=
  ∀ s : State, s.kind = .writer →
    (remaining s < n → exec i s = .next (responding s (exhaustion throwing) 0)) ∧
    ((n : Int) ≤ remaining s → Memory.wf s.buf = true →
      ∃ m, exec i s = .next
          { s with
            buf := m
            pos := positionAfter s advances n
            response := some ⟨.ok, 0⟩ } ∧
        Memory.wf m = true ∧ FieldWritten s.buf m s.position n value ∧
        OtherBytesKept s.buf m s.position n)

/-- R161 to R164: one read command of the Bit class, with its syntax, OP byte, ignored operands, the
other kind's answer, and its effect. -/
def BitReadRule (name : String) (op : Byte) (advances throwing : Bool) (i : Instr) : Prop :=
  assembleText name = some ⟨op, 0, 0⟩ ∧
    (∀ arg wdata, decode ⟨op, arg, wdata⟩ = .ok i) ∧
    IllegalOn .writer i ∧ ReadsField advances throwing 1 i

/-- R165 to R180: one read command of a class of width `max`, with its syntax and default count, OP
byte, signed count, ignored WDATA, the other kind's answer, its width check and its effect. -/
def ReadRule (name : String) (op : Byte) (max : Nat) (advances throwing : Bool)
    (i : Int → Instr) : Prop :=
  assembleText name = some ⟨op, BitVec.ofNat 32 max, 0⟩ ∧
    (∀ arg wdata, decode ⟨op, arg, wdata⟩ = .ok (i arg.toInt)) ∧
    ∀ a : Int, IllegalOn .writer (i a) ∧
      (a < 1 ∨ (max : Int) < a → RangeErrorOn .reader (i a)) ∧
      (1 ≤ a → a ≤ max → ReadsField advances throwing a.toNat (i a))

/-- R201 to R204: one write command of the Bit class, as `BitReadRule`; it writes `WDATA[0]`. -/
def BitWriteRule (line : String) (op : Byte) (advances throwing : Bool) (i : Data → Instr) : Prop :=
  assembleText line = some ⟨op, 0, 1⟩ ∧
    (∀ arg wdata, decode ⟨op, arg, wdata⟩ = .ok (i wdata)) ∧
    ∀ value : Data, IllegalOn .reader (i value) ∧ WritesField advances throwing 1 value (i value)

/-- R205 to R220: one write command of a class of width `max`, as `ReadRule`; it writes the low bits
of WDATA. -/
def WriteRule (line : String) (op : Byte) (max : Nat) (advances throwing : Bool)
    (i : Data → Int → Instr) : Prop :=
  assembleText line = some ⟨op, BitVec.ofNat 32 max, 1⟩ ∧
    (∀ arg wdata, decode ⟨op, arg, wdata⟩ = .ok (i wdata arg.toInt)) ∧
    ∀ (value : Data) (a : Int), IllegalOn .reader (i value a) ∧
      (a < 1 ∨ (max : Int) < a → RangeErrorOn .writer (i value a)) ∧
      (1 ≤ a → a ≤ max → WritesField advances throwing a.toNat value (i value a))

/-- R240, R243: `pos <- a` for `0 ≤ a ≤ BL`, else ERR_RANGE; the product of R245 in the place of `a`. -/
def MovesTo (target : Int) (i : Instr) : Prop :=
  ∀ s : State,
    (target < 0 ∨ (s.bitLength : Int) < target → exec i s = .next (responding s .errRange 0)) ∧
    (0 ≤ target → target ≤ s.bitLength → exec i s = .next
      { s with pos := BitVec.ofInt 31 target, response := some ⟨.ok, 0⟩ })

/-- R100: the three forms of an illegal OP value. -/
def illegalOp (op : Byte) : Bool :=
  (!op.getLsbD 7 && op.getLsbD 3) ||
    (!op.getLsbD 7 && decide (5 ≤ (op.extractLsb 2 0).toNat)) ||
    (op.getLsbD 7 && decide (op.extractLsb 6 3 ≠ 0))

/-- R93: a format-A command of the read side. -/
def readSideOp (op : Byte) : Bool := !op.getLsbD 7 && !op.getLsbD 6

/-- R93: a format-A command of the write side. -/
def writeSideOp (op : Byte) : Bool := !op.getLsbD 7 && op.getLsbD 6

/-- R101: a format-A command of the side that this kind does not accept. -/
def wrongSide (kind : Kind) (op : Byte) : Bool :=
  match kind with
  | .reader => writeSideOp op
  | .writer => readSideOp op

/-- R94: `WMAX` by the number of the class. -/
def maxOfField (w : BitVec 3) : Int :=
  if w = 0 then 1 else if w = 1 then 8 else if w = 2 then 16 else if w = 3 then 32 else 64

/-- R97: the bit count of a format-A request, which is 1 in the Bit class. -/
def countOf (r : Request) : Int := if r.op.extractLsb 2 0 = 0 then 1 else r.arg.toInt

/-- R160, R200: the width check passes. -/
def countInRange (r : Request) : Prop :=
  1 ≤ countOf r ∧ countOf r ≤ maxOfField (r.op.extractLsb 2 0)

/-- R271: the position that a format-P request would write is out of range. -/
def positionOutOfRange (s : State) (r : Request) : Prop :=
  ((r.op = 0x80 ∨ r.op = 0x83) ∧ (r.arg.toInt < 0 ∨ (s.bitLength : Int) < r.arg.toInt)) ∨
    (r.op = 0x85 ∧ (8 * r.arg.toInt < 0 ∨ (s.bitLength : Int) < 8 * r.arg.toInt))

/-- The host's next event is this command, and the unit holds its buffer. The list of events and the field
`lent` are the model's own form of the interface (log entries 4 and 5). -/
def Issued (s : State) (r : Request) (rest : List HostEvent) : Prop :=
  s.host = .command r :: rest ∧ s.lent = true

/-- R94: the number of a width class. -/
def classNumber : WidthClass → Nat
  | .bit => 0
  | .byte => 1
  | .short => 2
  | .int => 3
  | .long => 4

/-- R97, R105: the ARG field of an access line, which is 0 in the Bit class, and otherwise the line's count
or, where it has none, the class's full width. -/
def CarriesCount (w : WidthClass) (count : Option Int) (r : Request) : Prop :=
  (w = .bit → r.arg = 0) ∧ (w ≠ .bit → r.arg.toInt = count.getD (classMax w))

/-- R104: the request's OP is the line's mnemonic, as R95 and R96 number it, its ARG and WDATA are the
line's operands, and a field that the mnemonic does not use is 0. -/
def Carries (line : AsmLine) (r : Request) : Prop :=
  match line with
  | .readSide v t w count =>
    r.op.toNat = 32 * v.toNat + 16 * t.toNat + classNumber w ∧ CarriesCount w count r ∧ r.wdata = 0
  | .writeSide v t w value count =>
    r.op.toNat = 64 + 32 * v.toNat + 16 * t.toNat + classNumber w ∧ CarriesCount w count r ∧
      r.wdata.toNat = value
  | .new offset => r.op = 0x80 ∧ r.arg.toInt = offset.getD 0 ∧ r.wdata = 0
  | .getBitLength => r = ⟨0x81, 0, 0⟩
  | .getBitPosition => r = ⟨0x82, 0, 0⟩
  | .setBitPosition position => r.op = 0x83 ∧ r.arg.toInt = position ∧ r.wdata = 0
  | .getBytePosition => r = ⟨0x84, 0, 0⟩
  | .setBytePosition bytePosition => r.op = 0x85 ∧ r.arg.toInt = bytePosition ∧ r.wdata = 0
  | .getBitOffset => r = ⟨0x86, 0, 0⟩
  | .getRemainingBits => r = ⟨0x87, 0, 0⟩

/-- R97: `a` lies in `[−2^31, 2^31 − 1]`. -/
def SignedFits (a : Int) : Prop := -2147483648 ≤ a ∧ a ≤ 2147483647

/-- The operands of a line fit their fields, and a Bit line has no count: the model's own choice of the
lines that assemble (log entry 10). -/
def LineFits (line : AsmLine) : Prop :=
  match line with
  | .readSide _ _ w count => (w = .bit → count = none) ∧ ∀ n, count = some n → SignedFits n
  | .writeSide _ _ w value count =>
    value < 2 ^ 64 ∧ (w = .bit → count = none) ∧ ∀ n, count = some n → SignedFits n
  | .new offset => ∀ n, offset = some n → SignedFits n
  | .setBitPosition position => SignedFits position
  | .setBytePosition bytePosition => SignedFits bytePosition
  | .getBitLength => True
  | .getBitPosition => True
  | .getBytePosition => True
  | .getBitOffset => True
  | .getRemainingBits => True

end Sys2Proof.Claims

open Sys2Proof Sys2Proof.Machine Sys2Proof.Claims

/-- Derived from 30_encoding.md sections 1 to 3: the fields of a request (R90), OP bytes written out as
`0 S V T 0 W` (R93) and `1 0000 sel` (R96), and ARG read as a signed integer (R97). -/
def Obligations.SampleRequestsDecode : Prop :=
  decode ⟨0b00110001#8, 5#32, 0#64⟩ = .ok (.readByte 5) ∧
    decode ⟨0b00000000#8, 0#32, 0#64⟩ = .ok .tryPeekBit ∧
    decode ⟨0b00010010#8, 0xFFFFFFFF#32, 0#64⟩ = .ok (.peekShort (-1)) ∧
    decode ⟨0b01100011#8, 32#32, 0xDEADBEEF#64⟩ = .ok (.tryWriteInt 0xDEADBEEF#64 32) ∧
    decode ⟨0b01110100#8, 64#32, 7#64⟩ = .ok (.writeLong 7#64 64) ∧
    decode ⟨0b01000000#8, 0#32, 1#64⟩ = .ok (.tryPokeBit 1#64) ∧
    decode ⟨0b10000011#8, 17#32, 0#64⟩ = .ok (.setBitPosition 17) ∧
    decode ⟨0b10000111#8, 0#32, 0#64⟩ = .ok .getRemainingBits

/-- Derived from 30_encoding.md sections 1 to 3: no operand bit of any of the 48 commands is dropped. The
104-bit word is the model's layout (log entry 3). -/
def Obligations.DecodeInvertsEncode : Prop :=
  ∀ i : Instr, i.wellFormed = true →
    decode (encode i) = .ok i ∧ decode (Request.ofWord (encode i).toWord) = .ok i

/-- Derived from 30_encoding.md sections 2 and 3: decoding loses only the fields a command ignores (D12),
which the encoder assembles as 0. -/
def Obligations.EncodeInvertsDecode : Prop :=
  ∀ (r : Request) (i : Instr), decode r = .ok i →
    i.wellFormed = true ∧ (encode i).op = r.op ∧
      ((encode i).arg = r.arg ∨ (encode i).arg = 0) ∧
      ((encode i).wdata = r.wdata ∨ (encode i).wdata = 0) ∧ decode (encode i) = .ok i

/-- R100: the illegal OP values, their number, and their answer. The spec marks this as its own inference
([derived]): "These OP values are illegal, and each gives `ERR_ILLEGAL` with no state written" -/
def Obligations.IllegalOpcodesAnswerIllegal : Prop :=
  (∀ r : Request, (∃ e, decode r = .error e) ↔ illegalOp r.op = true) ∧
    ((List.range 256).filter fun n => illegalOp (BitVec.ofNat 8 n)).length = 208 ∧
    ((List.range 256).filter fun n => !illegalOp (BitVec.ofNat 8 n)) =
      List.range' 0x00 5 ++ List.range' 0x10 5 ++ List.range' 0x20 5 ++ List.range' 0x30 5 ++
        List.range' 0x40 5 ++ List.range' 0x50 5 ++ List.range' 0x60 5 ++ List.range' 0x70 5 ++
        List.range' 0x80 8 ∧
    ∀ (s : State) (r : Request) (rest : List HostEvent), Issued s r rest → illegalOp r.op = true →
      step s = .next { s with host := rest, response := some ⟨.errIllegal, 0⟩ }

/-- R101: side legality. -/
def Obligations.WrongSideAnswersIllegal : Prop :=
  ∀ (s : State) (r : Request) (rest : List HostEvent), Issued s r rest →
    r.op.getLsbD 7 = false →
    (wrongSide s.kind r.op = true →
      step s = .next { s with host := rest, response := some ⟨.errIllegal, 0⟩ }) ∧
    (wrongSide s.kind r.op = false → illegalOp r.op = false →
      ∃ t status rdata, step s = .next t ∧ t.response = some ⟨status, rdata⟩ ∧
        status ≠ .errIllegal)

/-- Derived from R17 and R103, which give a command its decoding and its one atomic effect. That a step takes
the first event off a list, and that the unit holds its buffer by the field `lent`, are the model's own
form (log entry 4, DESIGN CHOICE, and log entry 5). -/
def Obligations.StepRunsDecodedCommand : Prop :=
  ∀ (s : State) (r : Request) (rest : List HostEvent) (i : Instr), Issued s r rest →
    decode r = .ok i → step s = exec i { s with host := rest }

/-- R161 to R164: the four read-side commands of the Bit class. -/
def Obligations.BitReadCommands : Prop :=
  BitReadRule "TryPeekBit" 0x00 false false .tryPeekBit ∧
    BitReadRule "PeekBit" 0x10 false true .peekBit ∧
    BitReadRule "TryReadBit" 0x20 true false .tryReadBit ∧
    BitReadRule "ReadBit" 0x30 true true .readBit

/-- R165 to R168: the four read-side commands of the Byte class. -/
def Obligations.ByteReadCommands : Prop :=
  ReadRule "TryPeekByte" 0x01 8 false false .tryPeekByte ∧
    ReadRule "PeekByte" 0x11 8 false true .peekByte ∧
    ReadRule "TryReadByte" 0x21 8 true false .tryReadByte ∧
    ReadRule "ReadByte" 0x31 8 true true .readByte

/-- R169 to R172: the four read-side commands of the Short class. -/
def Obligations.ShortReadCommands : Prop :=
  ReadRule "TryPeekShort" 0x02 16 false false .tryPeekShort ∧
    ReadRule "PeekShort" 0x12 16 false true .peekShort ∧
    ReadRule "TryReadShort" 0x22 16 true false .tryReadShort ∧
    ReadRule "ReadShort" 0x32 16 true true .readShort

/-- R173 to R176: the four read-side commands of the Int class. -/
def Obligations.IntReadCommands : Prop :=
  ReadRule "TryPeekInt" 0x03 32 false false .tryPeekInt ∧
    ReadRule "PeekInt" 0x13 32 false true .peekInt ∧
    ReadRule "TryReadInt" 0x23 32 true false .tryReadInt ∧
    ReadRule "ReadInt" 0x33 32 true true .readInt

/-- R177 to R180: the four read-side commands of the Long class. -/
def Obligations.LongReadCommands : Prop :=
  ReadRule "TryPeekLong" 0x04 64 false false .tryPeekLong ∧
    ReadRule "PeekLong" 0x14 64 false true .peekLong ∧
    ReadRule "TryReadLong" 0x24 64 true false .tryReadLong ∧
    ReadRule "ReadLong" 0x34 64 true true .readLong

/-- R201 to R204: the four write-side commands of the Bit class. -/
def Obligations.BitWriteCommands : Prop :=
  BitWriteRule "TryPokeBit 1" 0x40 false false .tryPokeBit ∧
    BitWriteRule "PokeBit 1" 0x50 false true .pokeBit ∧
    BitWriteRule "TryWriteBit 1" 0x60 true false .tryWriteBit ∧
    BitWriteRule "WriteBit 1" 0x70 true true .writeBit

/-- R205 to R208: the four write-side commands of the Byte class. -/
def Obligations.ByteWriteCommands : Prop :=
  WriteRule "TryPokeByte 1" 0x41 8 false false .tryPokeByte ∧
    WriteRule "PokeByte 1" 0x51 8 false true .pokeByte ∧
    WriteRule "TryWriteByte 1" 0x61 8 true false .tryWriteByte ∧
    WriteRule "WriteByte 1" 0x71 8 true true .writeByte

/-- R209 to R212: the four write-side commands of the Short class. -/
def Obligations.ShortWriteCommands : Prop :=
  WriteRule "TryPokeShort 1" 0x42 16 false false .tryPokeShort ∧
    WriteRule "PokeShort 1" 0x52 16 false true .pokeShort ∧
    WriteRule "TryWriteShort 1" 0x62 16 true false .tryWriteShort ∧
    WriteRule "WriteShort 1" 0x72 16 true true .writeShort

/-- R213 to R216: the four write-side commands of the Int class. -/
def Obligations.IntWriteCommands : Prop :=
  WriteRule "TryPokeInt 1" 0x43 32 false false .tryPokeInt ∧
    WriteRule "PokeInt 1" 0x53 32 false true .pokeInt ∧
    WriteRule "TryWriteInt 1" 0x63 32 true false .tryWriteInt ∧
    WriteRule "WriteInt 1" 0x73 32 true true .writeInt

/-- R217 to R220: the four write-side commands of the Long class. -/
def Obligations.LongWriteCommands : Prop :=
  WriteRule "TryPokeLong 1" 0x44 64 false false .tryPokeLong ∧
    WriteRule "PokeLong 1" 0x54 64 false true .pokeLong ∧
    WriteRule "TryWriteLong 1" 0x64 64 true false .tryWriteLong ∧
    WriteRule "WriteLong 1" 0x74 64 true true .writeLong

/-- R240: New. -/
def Obligations.NewConstructsAtOffset : Prop :=
  (∀ arg wdata, decode ⟨0x80, arg, wdata⟩ = .ok (.new arg.toInt)) ∧
    assembleText "New 3" = some ⟨0x80, 3, 0⟩ ∧
    (∀ a : Int, MovesTo (a) (.new a)) ∧
    assembleText "New" = some ⟨0x80, 0, 0⟩

/-- R243: SetBitPosition. -/
def Obligations.SetBitPositionMoves : Prop :=
  (∀ arg wdata, decode ⟨0x83, arg, wdata⟩ = .ok (.setBitPosition arg.toInt)) ∧
    assembleText "SetBitPosition 3" = some ⟨0x83, 3, 0⟩ ∧
    (∀ a : Int, MovesTo (a) (.setBitPosition a))

/-- R245: SetBytePosition. -/
def Obligations.SetBytePositionMoves : Prop :=
  (∀ arg wdata, decode ⟨0x85, arg, wdata⟩ = .ok (.setBytePosition arg.toInt)) ∧
    assembleText "SetBytePosition 3" = some ⟨0x85, 3, 0⟩ ∧
    (∀ a : Int, MovesTo (8 * a) (.setBytePosition a)) ∧
    (∀ (a : Int) (s : State), 0 ≤ 8 * a → 8 * a ≤ s.bitLength → ∃ t,
      exec (.setBytePosition a) s = .next t ∧ t.bitOffset = 0 ∧ (t.bytePosition : Int) = a)

/-- R241, R242, R244, R246, R247: the five get commands. -/
def Obligations.PropertyReadsAnswer : Prop :=
  (∀ arg wdata, decode ⟨0x81, arg, wdata⟩ = .ok .getBitLength ∧
      decode ⟨0x82, arg, wdata⟩ = .ok .getBitPosition ∧
      decode ⟨0x84, arg, wdata⟩ = .ok .getBytePosition ∧
      decode ⟨0x86, arg, wdata⟩ = .ok .getBitOffset ∧
      decode ⟨0x87, arg, wdata⟩ = .ok .getRemainingBits) ∧
    (assembleText "GetBitLength" = some ⟨0x81, 0, 0⟩ ∧
      assembleText "GetBitPosition" = some ⟨0x82, 0, 0⟩ ∧
      assembleText "GetBytePosition" = some ⟨0x84, 0, 0⟩ ∧
      assembleText "GetBitOffset" = some ⟨0x86, 0, 0⟩ ∧
      assembleText "GetRemainingBits" = some ⟨0x87, 0, 0⟩) ∧
    ∀ s : State,
      exec .getBitLength s = .next (responding s .ok (BitVec.ofNat 64 (8 * s.len.val))) ∧
      exec .getBitPosition s = .next (responding s .ok (s.pos.setWidth 64)) ∧
      exec .getBytePosition s = .next (responding s .ok (BitVec.ofNat 64 (s.pos.toNat / 8))) ∧
      exec .getBitOffset s = .next (responding s .ok (BitVec.ofNat 64 (s.pos.toNat % 8))) ∧
      (s.position ≤ s.bitLength →
        exec .getRemainingBits s = .next (responding s .ok (BitVec.ofInt 64 (remaining s))))

/-- R33: the derived quantities. -/
def Obligations.PropertiesAreFunctionsOfPosition : Prop :=
  ∀ s : State,
    s.bytePosition = s.pos.toNat / 8 ∧ s.bitOffset = s.pos.toNat % 8 ∧ s.bitOffset ≤ 7 ∧
    (s.position ≤ s.bitLength → s.bytePosition ≤ s.len.val ∧
      (s.remainingBits : Int) = remaining s ∧ s.remainingBits ≤ s.bitLength)

/-- Derived. The spec marks each as its own inference ([derived]): "`pos[2:0]` is BitOffset and `pos[30:3]`
is BytePosition" (10_state.md), "Its effect equals `SetBitPosition` with the same ARG" and "the check
is equivalent to `0 ≤ a ≤ L`" (43_control.md). -/
def Obligations.PositionInferences : Prop :=
  (∀ s : State, s.bitLength ≤ 2 ^ 31 - 1 ∧
      s.bytePosition = (s.pos.extractLsb 30 3).toNat ∧
      s.bitOffset = (s.pos.extractLsb 2 0).toNat) ∧
    (∀ (a : Int) (s : State), exec (.new a) s = exec (.setBitPosition a) s) ∧
    ∀ (a : Int) (s : State),
      (0 ≤ 8 * a ∧ 8 * a ≤ s.bitLength) ↔ (0 ≤ a ∧ a ≤ s.len.val)

/-- R300: the reset event. -/
def Obligations.ResetEventClearsPosition : Prop :=
  ∀ (s : State) (rest : List HostEvent), s.host = .reset :: rest →
    step s = .next { s with host := rest, pos := 0, response := none } ∧
      ∃ t, exec (.new 0) { s with host := rest } = .next t ∧ t.response = some ⟨.ok, 0⟩ ∧
        step s = .next { t with response := none } ∧ t.bitLength = 8 * s.len.val

/-- R43: the state after reset. Nothing here rests on the kind, length or bytes that the model chose for
`State.reset` (log entries 1 and 2). The spec marks this as its own inference
([derived]): "So BytePosition = 0, BitOffset = 0 and RemainingBits = `8·L`" -/
def Obligations.ResetStateProperties : Prop :=
  (∀ (s t : State) (rest : List HostEvent), s.host = .reset :: rest → step s = .next t →
      t.position = 0 ∧ t.bitLength = 8 * t.len.val ∧ t.len = s.len ∧ t.buf = s.buf ∧
        t.bytePosition = 0 ∧ t.bitOffset = 0 ∧ t.remainingBits = 8 * t.len.val) ∧
    State.reset.position = 0 ∧ State.reset.bitLength = 8 * State.reset.len.val ∧
    State.reset.bytePosition = 0 ∧ State.reset.bitOffset = 0 ∧
    State.reset.remainingBits = 8 * State.reset.len.val ∧ State.reset.response = none

/-- Derived from R31, R60 and R249; the canonical form is the model's own. -/
def Obligations.StepKeepsInvariant : Prop :=
  ∀ s t : State, s.Inv → step s = .next t → t.Inv

/-- Derived from R31, R43 and R60. -/
def Obligations.ResetMeetsInvariant : Prop :=
  State.reset.Inv

/-- R248: the writers of `pos`. Lending a buffer, which ends one lifetime and starts another (log entry 5), is
in `LendingBindsTheBuffer`. -/
def Obligations.PositionIsWrittenOnlyByListedEvents : Prop :=
  ∀ s t : State, (∀ bytes rest, s.host ≠ .lend bytes :: rest) →
    step s = .next t → t.position ≠ s.position →
    (∃ rest, s.host = .reset :: rest ∧ t.position = 0) ∨
    ∃ r rest, s.host = .command r :: rest ∧ (∃ rdata, t.response = some ⟨.ok, rdata⟩) ∧
      ((r.op = 0x80 ∧ (t.position : Int) = r.arg.toInt) ∨
        (r.op = 0x83 ∧ (t.position : Int) = r.arg.toInt) ∨
        (r.op = 0x85 ∧ (t.position : Int) = 8 * r.arg.toInt) ∨
        (r.op.getLsbD 7 = false ∧ r.op.getLsbD 5 = true ∧
          (t.position : Int) = s.position + countOf r))

/-- R249: the invariant and the exhausted state. The spec marks this as its own inference
([derived]): "In the exhausted state every access fails for exhaustion, and every format-P command still works" -/
def Obligations.ExhaustedStateOnlyRepositions : Prop :=
  (∀ (i : Instr) (s t : State), s.position ≤ s.bitLength → exec i s = .next t →
      t.position ≤ t.bitLength) ∧
    ∀ (s : State) (r : Request) (rest : List HostEvent), Issued s r rest →
      s.position = s.bitLength →
      (r.op.getLsbD 7 = false → illegalOp r.op = false → wrongSide s.kind r.op = false →
        countInRange r →
        step s = .next
          { s with host := rest, response := some ⟨exhaustion (r.op.getLsbD 4), 0⟩ }) ∧
      (r.op.getLsbD 7 = true → illegalOp r.op = false → ¬ positionOutOfRange s r →
        ∃ t rdata, step s = .next t ∧ t.response = some ⟨.ok, rdata⟩ ∧
          (r.op = 0x80 ∨ r.op = 0x83 → (t.position : Int) = r.arg.toInt) ∧
          (r.op = 0x85 → (t.position : Int) = 8 * r.arg.toInt))

/-- R275: a failed command writes nothing. -/
def Obligations.FailureLeavesStateUnchanged : Prop :=
  ∀ (s t : State) (r : Request) (rest : List HostEvent) (status : Status) (rdata : Data),
    s.host = .command r :: rest → step s = .next t → t.response = some ⟨status, rdata⟩ →
    status ≠ .ok → t = { s with host := rest, response := some ⟨status, 0⟩ }

/-- R276: no retries. -/
def Obligations.StatusIsFunctionOfCommandAndState : Prop :=
  (∀ (s s' t : State) (r : Request) (rest rest' : List HostEvent), s.host = .command r :: rest →
      s'.host = .command r :: rest' → s'.kind = s.kind → s'.len = s.len → s'.lent = s.lent →
      s'.buf = s.buf → s'.pos = s.pos → step s = .next t →
      step s' = .next { t with host := rest' }) ∧
    ∀ (i : Instr) (s t : State) (status : Status) (rdata : Data), exec i s = .next t →
      t.response = some ⟨status, rdata⟩ → status ≠ .ok → exec i t = .next t

/-- R277: the priority of the checks, over every request. -/
def Obligations.StatusFollowsPriority : Prop :=
  ∀ (s : State) (r : Request) (rest : List HostEvent), Issued s r rest →
    ∃ t status rdata, step s = .next t ∧ t.response = some ⟨status, rdata⟩ ∧
      (illegalOp r.op = true ∨ wrongSide s.kind r.op = true → status = .errIllegal) ∧
      (illegalOp r.op = false → wrongSide s.kind r.op = false →
        ((r.op.getLsbD 7 = true →
            (positionOutOfRange s r → status = .errRange) ∧
            (¬ positionOutOfRange s r → status = .ok)) ∧
          (r.op.getLsbD 7 = false →
            (¬ countInRange r → status = .errRange) ∧
            (countInRange r → remaining s < countOf r → status = exhaustion (r.op.getLsbD 4)) ∧
            (countInRange r → countOf r ≤ remaining s → status = .ok))))

/-- R271: the causes of ERR_RANGE. -/
def Obligations.RangeErrorCauses : Prop :=
  ∀ (s t : State) (r : Request) (rest : List HostEvent) (status : Status) (rdata : Data),
    s.host = .command r :: rest → step s = .next t → t.response = some ⟨status, rdata⟩ →
    (status = .errRange ↔ illegalOp r.op = false ∧ wrongSide s.kind r.op = false ∧
      ((r.op.getLsbD 7 = false ∧ r.op.extractLsb 2 0 ≠ 0 ∧
          (r.arg.toInt < 1 ∨ maxOfField (r.op.extractLsb 2 0) < r.arg.toInt)) ∨
        positionOutOfRange s r)) ∧
      (status = .errRange → rdata = 0)

/-- R272: the cause of FAIL and ERR_EOS, at the exact boundary. -/
def Obligations.ExhaustionBoundaryIsExact : Prop :=
  (∀ (s : State) (r : Request) (rest : List HostEvent), Issued s r rest →
      r.op.getLsbD 7 = false → illegalOp r.op = false → wrongSide s.kind r.op = false →
      countInRange r →
      (remaining s < countOf r → step s = .next
        { s with host := rest, response := some ⟨exhaustion (r.op.getLsbD 4), 0⟩ }) ∧
      (countOf r ≤ remaining s → ∃ t rdata, step s = .next t ∧ t.response = some ⟨.ok, rdata⟩)) ∧
    ∀ (s t : State) (r : Request) (rest : List HostEvent) (status : Status) (rdata : Data),
      s.host = .command r :: rest → step s = .next t → t.response = some ⟨status, rdata⟩ →
      status = .fail ∨ status = .errEos →
      r.op.getLsbD 7 = false ∧ illegalOp r.op = false ∧ wrongSide s.kind r.op = false ∧
        countInRange r ∧ remaining s < countOf r ∧ status = exhaustion (r.op.getLsbD 4)

/-- R270: the STATUS codes and who raises them. -/
def Obligations.StatusCodesAndTheirRaisers : Prop :=
  (Status.ok.code = 0 ∧ Status.fail.code = 1 ∧ Status.errRange.code = 2 ∧
      Status.errEos.code = 3 ∧ Status.errIllegal.code = 4 ∧
      ∀ status : Status, status.code.toNat ≤ 4) ∧
    ∀ (s t : State) (r : Request) (rest : List HostEvent) (status : Status) (rdata : Data),
      s.host = .command r :: rest → step s = .next t → t.response = some ⟨status, rdata⟩ →
      (status = .fail → r.op.getLsbD 7 = false ∧ r.op.getLsbD 4 = false) ∧
      (status = .errEos → r.op.getLsbD 7 = false ∧ r.op.getLsbD 4 = true) ∧
      (status = .errRange →
        (r.op.getLsbD 7 = false ∧ r.op.extractLsb 2 0 ≠ 0) ∨
          r.op = 0x80 ∨ r.op = 0x83 ∨ r.op = 0x85) ∧
      (status = .errIllegal ↔ illegalOp r.op = true ∨ wrongSide s.kind r.op = true)

/-- Derived from R99, R307 and D11: RDATA on responses with no value. -/
def Obligations.ResponsesWithoutValueCarryZero : Prop :=
  ∀ (s t : State) (r : Request) (rest : List HostEvent) (status : Status) (rdata : Data),
    s.host = .command r :: rest → step s = .next t → t.response = some ⟨status, rdata⟩ →
    rdata ≠ 0 → status = .ok ∧ (readSideOp r.op = true ∨ r.op = 0x81 ∨ r.op = 0x82 ∨
      r.op = 0x84 ∨ r.op = 0x86 ∨ r.op = 0x87)

/-- Derived from R278 and R308: every failure is a response, and every command completes. -/
def Obligations.EveryCommandCompletes : Prop :=
  (∀ (i : Instr) (s : State), ∃ t answer, exec i s = .next t ∧ t.response = some answer) ∧
    ∀ (s : State) (r : Request) (rest : List HostEvent), Issued s r rest →
      ∃ t answer, step s = .next t ∧ t.response = some answer

/-- R139: closed form of every read. The spec marks this as its own inference
([derived]): "all equal `FieldRead` wherever rule R141 holds" -/
def Obligations.FieldReadEqualsClosedForm : Prop :=
  ∀ (w : WidthClass) (m : Memory) (p n : Nat), 1 ≤ n → n ≤ classMax w →
    (fieldRead w m p n).toNat = fieldValue m p n

/-- R140: closed form of every write. The spec marks this as its own inference
([derived]): "So a model may implement every write as this function" -/
def Obligations.FieldWriteEqualsClosedForm : Prop :=
  ∀ (w : WidthClass) (m : Memory) (p n : Nat) (v : Data), Memory.wf m = true → 1 ≤ n →
    n ≤ classMax w → FieldWritten m (fieldWrite w m p n v) p n v

/-- R142: round trip. -/
def Obligations.WriteThenReadRoundTrips : Prop :=
  ∀ (w w' : WidthClass) (m : Memory) (p n : Nat) (v : Data), Memory.wf m = true → 1 ≤ n →
    n ≤ classMax w → n ≤ classMax w' →
    (fieldRead w' (fieldWrite w m p n v) p n).toNat = v.toNat % 2 ^ n ∧
      (v.toNat < 2 ^ n → (fieldRead w' (fieldWrite w m p n v) p n).toNat = v.toNat)

/-- R65: the bytes a field touches. The spec marks this as its own inference
([derived]): "No byte outside that range is read or written" -/
def Obligations.AccessTouchesOnlyFieldBytes : Prop :=
  ∀ (w : WidthClass) (m m' : Memory) (p n : Nat) (v : Data), 1 ≤ n → n ≤ classMax w →
    (p + n - 1) / 8 - p / 8 + 1 ≤ 9 ∧
    ((∀ i, p / 8 ≤ i → i ≤ (p + n - 1) / 8 → Memory.get m i = Memory.get m' i) →
      fieldRead w m p n = fieldRead w m' p n ∧
      (Memory.wf m = true → Memory.wf m' = true → ∀ i, p / 8 ≤ i → i ≤ (p + n - 1) / 8 →
        Memory.get (fieldWrite w m p n v) i = Memory.get (fieldWrite w m' p n v) i)) ∧
    (Memory.wf m = true → OtherBytesKept m (fieldWrite w m p n v) p n)

/-- Derived from R63, with R140 for the writes: a field of whole bytes at a byte-aligned position, in every
class that admits it. -/
def Obligations.AlignedFieldsAreBigEndian : Prop :=
  ∀ (w : WidthClass) (m : Memory) (i k : Nat), 1 ≤ k → 8 * k ≤ classMax w →
    (fieldRead w m (8 * i) (8 * k)).toNat =
        ∑ j ∈ Finset.range k, (Memory.get m (i + j)).toNat * 256 ^ (k - 1 - j) ∧
      ∀ v : Data, Memory.wf m = true → ∀ j, j < k →
        Memory.get (fieldWrite w m (8 * i) (8 * k) v) (i + j) = v.extractLsb' (8 * (k - 1 - j)) 8

/-- Derived from R67: the result depends only on the old buffer, `p`, `N` and the value. -/
def Obligations.RepeatedPokeLeavesSameBuffer : Prop :=
  ∀ (w : WidthClass) (m : Memory) (p n : Nat) (v : Data), Memory.wf m = true → 1 ≤ n →
    n ≤ classMax w →
    fieldWrite w (fieldWrite w m p n v) p n v = fieldWrite w m p n v

/-- R181. The spec marks this as its own inference
([derived]): "A peek (`V = 0`) leaves `pos` unchanged on every status" -/
def Obligations.ReadSideKeepsBufferAndPeekKeepsPosition : Prop :=
  ∀ (s t : State) (r : Request) (rest : List HostEvent), s.host = .command r :: rest →
    readSideOp r.op = true → step s = .next t →
    t.buf = s.buf ∧ (r.op.getLsbD 5 = false → t.pos = s.pos)

/-- R182. The spec marks this as its own inference
([derived]): "A read (`V = 1`) that returns OK increases `pos` by exactly `N`." -/
def Obligations.ReadAdvancesExactlyByWidth : Prop :=
  ∀ (s t : State) (r : Request) (rest : List HostEvent) (status : Status) (rdata : Data),
    s.host = .command r :: rest → readSideOp r.op = true → r.op.getLsbD 5 = true →
    step s = .next t → t.response = some ⟨status, rdata⟩ →
    (status = .ok → (t.position : Int) = s.position + countOf r ∧ s.position < t.position) ∧
      (status ≠ .ok → t.pos = s.pos)

/-- R221. The spec marks this as its own inference
([derived]): "A write-side operation with status OK changes exactly the bits `[pos, pos + N)` of `buf`, to `v[N−1:0]` most-significant bit first." -/
def Obligations.WriteChangesExactlyTheField : Prop :=
  ∀ (s t : State) (r : Request) (rest : List HostEvent) (rdata : Data),
    s.host = .command r :: rest → writeSideOp r.op = true → Memory.wf s.buf = true →
    step s = .next t → t.response = some ⟨.ok, rdata⟩ →
    FieldWritten s.buf t.buf s.position (countOf r).toNat r.wdata

/-- R222. The spec marks this as its own inference
([derived]): "A write (`V = 1`) with status OK increases `pos` by exactly `N`." -/
def Obligations.WriteAdvancesExactlyByWidth : Prop :=
  ∀ (s t : State) (r : Request) (rest : List HostEvent) (status : Status) (rdata : Data),
    s.host = .command r :: rest → writeSideOp r.op = true → step s = .next t →
    t.response = some ⟨status, rdata⟩ →
    (r.op.getLsbD 5 = false → t.pos = s.pos) ∧
      (r.op.getLsbD 5 = true → status = .ok → (t.position : Int) = s.position + countOf r) ∧
      (r.op.getLsbD 5 = true → status ≠ .ok → t.pos = s.pos ∧ t.buf = s.buf)

/-- R183. The spec marks this as its own inference
([derived]): "`Read` of `N1` bits, then `N2` bits, returns the fields `[p, p+N1)` and `[p+N1, p+N1+N2)`" -/
def Obligations.ConsecutiveReadsLeaveNoGap : Prop :=
  ∀ (s t u : State) (r1 r2 : Request) (rest : List HostEvent) (v1 v2 : Data),
    s.host = .command r1 :: .command r2 :: rest →
    readSideOp r1.op = true → r1.op.getLsbD 5 = true →
    readSideOp r2.op = true → r2.op.getLsbD 5 = true →
    step s = .next t → t.response = some ⟨.ok, v1⟩ →
    step t = .next u → u.response = some ⟨.ok, v2⟩ →
    v1.toNat = fieldValue s.buf s.position (countOf r1).toNat ∧
      v2.toNat = fieldValue s.buf (s.position + (countOf r1).toNat) (countOf r2).toNat ∧
      v1.toNat * 2 ^ (countOf r2).toNat + v2.toNat =
        fieldValue s.buf s.position ((countOf r1).toNat + (countOf r2).toNat) ∧
      u.position = s.position + (countOf r1).toNat + (countOf r2).toNat

/-- R224. The spec marks this as its own inference
([derived]): "Packing consecutive fields with write operations fills the buffer's bits in order, with no gap and no overlap" -/
def Obligations.ConsecutiveWritesLeaveNoGap : Prop :=
  ∀ (s t u : State) (r1 r2 : Request) (rest : List HostEvent) (d1 d2 : Data),
    s.host = .command r1 :: .command r2 :: rest → Memory.wf s.buf = true →
    writeSideOp r1.op = true → r1.op.getLsbD 5 = true →
    writeSideOp r2.op = true → r2.op.getLsbD 5 = true →
    step s = .next t → t.response = some ⟨.ok, d1⟩ →
    step t = .next u → u.response = some ⟨.ok, d2⟩ →
    (∀ k, k < (countOf r1).toNat →
      Memory.bit u.buf (s.position + k) = r1.wdata.getLsbD ((countOf r1).toNat - 1 - k)) ∧
    (∀ k, k < (countOf r2).toNat →
      Memory.bit u.buf (s.position + (countOf r1).toNat + k) =
        r2.wdata.getLsbD ((countOf r2).toNat - 1 - k)) ∧
    (∀ q, q < s.position ∨ s.position + (countOf r1).toNat + (countOf r2).toNat ≤ q →
      Memory.bit u.buf q = Memory.bit s.buf q)

/-- R223: a Writer's field read back by a Reader over the same bytes (R306). The spec marks this as its own inference
([derived]): "Then read `N` bits at `p` from a Reader constructed over the same bytes afterwards" -/
def Obligations.WriterThenReaderRoundTrips : Prop :=
  ∀ (s t u : State) (rw rr : Request) (rest rest' : List HostEvent) (d : Data),
    s.host = .command rw :: rest → writeSideOp rw.op = true → Memory.wf s.buf = true →
    step s = .next t → t.response = some ⟨.ok, d⟩ →
    u.kind = .reader → u.len = t.len → u.buf = t.buf → u.pos = s.pos → Issued u rr rest' →
    readSideOp rr.op = true → illegalOp rr.op = false → countInRange rr →
    countOf rr = countOf rw →
    ∃ x v, step u = .next x ∧ x.response = some ⟨.ok, v⟩ ∧
      v.toNat = rw.wdata.toNat % 2 ^ (countOf rw).toNat

/-- Derived from R41 and R66 (the host's own lending of a buffer is no act of the cursor). -/
def Obligations.OnlyWriterAccessesWriteBuffer : Prop :=
  ∀ (s t : State) (e : HostEvent) (rest : List HostEvent), s.host = e :: rest →
    (∀ bytes, e ≠ .lend bytes) → step s = .next t → t.buf ≠ s.buf →
    ∃ r rdata, e = .command r ∧ s.kind = .writer ∧ writeSideOp r.op = true ∧
      illegalOp r.op = false ∧ t.response = some ⟨.ok, rdata⟩

/-- R32, with the parameters of R9 and R10. -/
def Obligations.BitLengthNeverChanges : Prop :=
  (∀ s : State, s.bitLength = 8 * s.len.val) ∧
    (∀ s t : State, step s = .next t →
      t.len = s.len ∧ t.kind = s.kind ∧ t.bitLength = s.bitLength) ∧
    ∀ s : State, exec .getBitLength s =
      .next (responding s .ok (BitVec.ofNat 64 s.bitLength))

/-- Derived from R302 and R300; the event is the model's own form of them (log entry 5). -/
def Obligations.LendingBindsTheBuffer : Prop :=
  ∀ (s : State) (bytes : List Byte) (rest : List HostEvent), s.host = .lend bytes :: rest →
    (bytes.length = s.len.val → ∃ m, step s = .next
        { s with host := rest, lent := true, buf := m, pos := 0, response := none } ∧
      Memory.wf m = true ∧ Memory.within s.len.val m = true ∧
      ∀ i, i < s.len.val → some (Memory.get m i) = bytes[i]?) ∧
    (bytes.length ≠ s.len.val → step s = .refused .bufferLength)

/-- Derived from R303, "A command issued after the buffer is withdrawn has no meaning in this spec"; the
event and the field `lent` are the model's own form of it (log entry 5). -/
def Obligations.CommandAfterWithdrawalIsRefused : Prop :=
  (∀ (s : State) (rest : List HostEvent), s.host = .withdraw :: rest →
      step s = .next { s with host := rest, lent := false }) ∧
    ∀ (s : State) (r : Request) (rest : List HostEvent), s.host = .command r :: rest →
      s.lent = false → step s = .refused .bufferWithdrawn

/-- Derived from R72, R305, R306, I2 and I3: such a run has no meaning. The two stray events, and that an access
after the withdrawal leaves the unit as it was, are the model's own form (log entry 6, DEDUCED, and log
entry 4). -/
def Obligations.OutsideInterferenceIsRefused : Prop :=
  (∀ (s : State) (r : Request) (rest : List HostEvent), s.host = .strayCommand r :: rest →
      step s = .refused .secondIssuer) ∧
    ∀ (s : State) (rest : List HostEvent), s.host = .strayAccess :: rest →
      (s.lent = true → step s = .refused .foreignAccess) ∧
      (s.lent = false → step s = .next { s with host := rest })

/-- Derived from R287, "Between commands the unit is idle and keeps all its state"; a step with no event is
the model's own form of it (log entry 4). -/
def Obligations.IdleUnitKeepsItsState : Prop :=
  ∀ s : State, s.host = [] → step s = .next s

/-- R105: the pseudo-instructions. -/
def Obligations.OmittedCountsMeanFullWidth : Prop :=
  (∀ (v t : Bool) (w : WidthClass), w ≠ .bit →
      assemble (.readSide v t w none) = assemble (.readSide v t w (some (classMax w))) ∧
      ∀ value, assemble (.writeSide v t w value none) =
        assemble (.writeSide v t w value (some (classMax w)))) ∧
    assemble (.new none) = assemble (.new (some 0)) ∧
    assembleText "ReadByte" = assembleText "ReadByte 8" ∧
    assembleText "WriteInt 0xD" = assembleText "WriteInt 0xD, 32" ∧
    assembleText "New" = assembleText "New 0"

/-- Derived from R104, with R95 and R96 for the OP bytes and R105 for the defaults. Which lines do not assemble
is the model's own choice (log entry 10, DESIGN CHOICE; R104 leaves it open). -/
def Obligations.AssembledLinesAreCommands : Prop :=
  (∀ (line : AsmLine) (i : Instr), assemble line = some i →
      i.wellFormed = true ∧ decode (encode i) = .ok i ∧ Carries line (encode i)) ∧
    (∀ line : AsmLine, (∃ i, assemble line = some i) ↔ LineFits line) ∧
    assembleText "ReadByte 3" = some ⟨0x31, 3, 0⟩ ∧
    assembleText "PeekBit" = some ⟨0x10, 0, 0⟩ ∧
    assembleText "WriteByte 0xD, 4" = some ⟨0x71, 4, 0xD⟩ ∧
    assembleText "PokeBit 1" = some ⟨0x50, 0, 1⟩ ∧
    assembleText "SetBitPosition -1" = some ⟨0x83, 0xFFFFFFFF, 0⟩
end

