-- ==== Sys2Proof/Laws/State.lean ====
section
/-! SUPPORT. One lemma per field and update of `State`, and the readings of `pos` and `BL` after each
update, so that no proof unfolds a record update. -/

namespace Sys2Proof.Machine

@[simp] theorem setPosition_kind (p : Nat) (s : State) :
    (State.setPosition p s).kind = s.kind := rfl

@[simp] theorem setPosition_len (p : Nat) (s : State) :
    (State.setPosition p s).len = s.len := rfl

@[simp] theorem setPosition_lent (p : Nat) (s : State) :
    (State.setPosition p s).lent = s.lent := rfl

@[simp] theorem setPosition_buf (p : Nat) (s : State) :
    (State.setPosition p s).buf = s.buf := rfl

@[simp] theorem setPosition_pos (p : Nat) (s : State) :
    (State.setPosition p s).pos = BitVec.ofNat 31 p := rfl

@[simp] theorem setPosition_host (p : Nat) (s : State) :
    (State.setPosition p s).host = s.host := rfl

@[simp] theorem setPosition_response (p : Nat) (s : State) :
    (State.setPosition p s).response = s.response := rfl

@[simp] theorem setPosition_bitLength (p : Nat) (s : State) :
    (State.setPosition p s).bitLength = s.bitLength := rfl

@[simp] theorem setBuffer_kind (m : Memory) (s : State) :
    (State.setBuffer m s).kind = s.kind := rfl

@[simp] theorem setBuffer_len (m : Memory) (s : State) :
    (State.setBuffer m s).len = s.len := rfl

@[simp] theorem setBuffer_lent (m : Memory) (s : State) :
    (State.setBuffer m s).lent = s.lent := rfl

@[simp] theorem setBuffer_buf (m : Memory) (s : State) :
    (State.setBuffer m s).buf = m := rfl

@[simp] theorem setBuffer_pos (m : Memory) (s : State) :
    (State.setBuffer m s).pos = s.pos := rfl

@[simp] theorem setBuffer_host (m : Memory) (s : State) :
    (State.setBuffer m s).host = s.host := rfl

@[simp] theorem setBuffer_response (m : Memory) (s : State) :
    (State.setBuffer m s).response = s.response := rfl

@[simp] theorem setBuffer_bitLength (m : Memory) (s : State) :
    (State.setBuffer m s).bitLength = s.bitLength := rfl

@[simp] theorem setBuffer_position (m : Memory) (s : State) :
    (State.setBuffer m s).position = s.position := rfl

@[simp] theorem respond_kind (st : Status) (d : Data) (s : State) :
    (respond st d s).kind = s.kind := rfl

@[simp] theorem respond_len (st : Status) (d : Data) (s : State) :
    (respond st d s).len = s.len := rfl

@[simp] theorem respond_lent (st : Status) (d : Data) (s : State) :
    (respond st d s).lent = s.lent := rfl

@[simp] theorem respond_buf (st : Status) (d : Data) (s : State) :
    (respond st d s).buf = s.buf := rfl

@[simp] theorem respond_pos (st : Status) (d : Data) (s : State) :
    (respond st d s).pos = s.pos := rfl

@[simp] theorem respond_host (st : Status) (d : Data) (s : State) :
    (respond st d s).host = s.host := rfl

@[simp] theorem respond_response (st : Status) (d : Data) (s : State) :
    (respond st d s).response = some ⟨st, d⟩ := rfl

@[simp] theorem respond_bitLength (st : Status) (d : Data) (s : State) :
    (respond st d s).bitLength = s.bitLength := rfl

@[simp] theorem respond_position (st : Status) (d : Data) (s : State) :
    (respond st d s).position = s.position := rfl

@[simp] theorem raise_kind (st : Status) (s : State) :
    (raise st s).kind = s.kind := rfl

@[simp] theorem raise_len (st : Status) (s : State) :
    (raise st s).len = s.len := rfl

@[simp] theorem raise_lent (st : Status) (s : State) :
    (raise st s).lent = s.lent := rfl

@[simp] theorem raise_buf (st : Status) (s : State) :
    (raise st s).buf = s.buf := rfl

@[simp] theorem raise_pos (st : Status) (s : State) :
    (raise st s).pos = s.pos := rfl

@[simp] theorem raise_host (st : Status) (s : State) :
    (raise st s).host = s.host := rfl

@[simp] theorem raise_response (st : Status) (s : State) :
    (raise st s).response = some ⟨st, 0⟩ := rfl

@[simp] theorem raise_bitLength (st : Status) (s : State) :
    (raise st s).bitLength = s.bitLength := rfl

@[simp] theorem raise_position (st : Status) (s : State) :
    (raise st s).position = s.position := rfl

@[simp] theorem resetUnit_kind (s : State) :
    (resetUnit s).kind = s.kind := rfl

@[simp] theorem resetUnit_len (s : State) :
    (resetUnit s).len = s.len := rfl

@[simp] theorem resetUnit_lent (s : State) :
    (resetUnit s).lent = s.lent := rfl

@[simp] theorem resetUnit_buf (s : State) :
    (resetUnit s).buf = s.buf := rfl

@[simp] theorem resetUnit_pos (s : State) :
    (resetUnit s).pos = 0 := rfl

@[simp] theorem resetUnit_host (s : State) :
    (resetUnit s).host = s.host := rfl

@[simp] theorem resetUnit_response (s : State) :
    (resetUnit s).response = none := rfl

@[simp] theorem resetUnit_bitLength (s : State) :
    (resetUnit s).bitLength = s.bitLength := rfl

@[simp] theorem resetUnit_position (s : State) :
    (resetUnit s).position = 0 := rfl

@[simp] theorem bindBuffer_kind (bytes : List Byte) (s : State) :
    (bindBuffer bytes s).kind = s.kind := rfl

@[simp] theorem bindBuffer_len (bytes : List Byte) (s : State) :
    (bindBuffer bytes s).len = s.len := rfl

@[simp] theorem bindBuffer_lent (bytes : List Byte) (s : State) :
    (bindBuffer bytes s).lent = true := rfl

@[simp] theorem bindBuffer_buf (bytes : List Byte) (s : State) :
    (bindBuffer bytes s).buf = Memory.ofBytes bytes := rfl

@[simp] theorem bindBuffer_pos (bytes : List Byte) (s : State) :
    (bindBuffer bytes s).pos = 0 := rfl

@[simp] theorem bindBuffer_host (bytes : List Byte) (s : State) :
    (bindBuffer bytes s).host = s.host := rfl

@[simp] theorem bindBuffer_response (bytes : List Byte) (s : State) :
    (bindBuffer bytes s).response = none := rfl

@[simp] theorem bindBuffer_bitLength (bytes : List Byte) (s : State) :
    (bindBuffer bytes s).bitLength = s.bitLength := rfl

@[simp] theorem bindBuffer_position (bytes : List Byte) (s : State) :
    (bindBuffer bytes s).position = 0 := rfl

@[simp] theorem releaseBuffer_kind (s : State) :
    (releaseBuffer s).kind = s.kind := rfl

@[simp] theorem releaseBuffer_len (s : State) :
    (releaseBuffer s).len = s.len := rfl

@[simp] theorem releaseBuffer_lent (s : State) :
    (releaseBuffer s).lent = false := rfl

@[simp] theorem releaseBuffer_buf (s : State) :
    (releaseBuffer s).buf = s.buf := rfl

@[simp] theorem releaseBuffer_pos (s : State) :
    (releaseBuffer s).pos = s.pos := rfl

@[simp] theorem releaseBuffer_host (s : State) :
    (releaseBuffer s).host = s.host := rfl

@[simp] theorem releaseBuffer_response (s : State) :
    (releaseBuffer s).response = s.response := rfl

@[simp] theorem releaseBuffer_bitLength (s : State) :
    (releaseBuffer s).bitLength = s.bitLength := rfl

@[simp] theorem releaseBuffer_position (s : State) :
    (releaseBuffer s).position = s.position := rfl

@[simp] theorem dropEvent_kind (s : State) :
    (dropEvent s).kind = s.kind := rfl

@[simp] theorem dropEvent_len (s : State) :
    (dropEvent s).len = s.len := rfl

@[simp] theorem dropEvent_lent (s : State) :
    (dropEvent s).lent = s.lent := rfl

@[simp] theorem dropEvent_buf (s : State) :
    (dropEvent s).buf = s.buf := rfl

@[simp] theorem dropEvent_pos (s : State) :
    (dropEvent s).pos = s.pos := rfl

@[simp] theorem dropEvent_host (s : State) :
    (dropEvent s).host = s.host.tail := rfl

@[simp] theorem dropEvent_response (s : State) :
    (dropEvent s).response = s.response := rfl

@[simp] theorem dropEvent_bitLength (s : State) :
    (dropEvent s).bitLength = s.bitLength := rfl

@[simp] theorem dropEvent_position (s : State) :
    (dropEvent s).position = s.position := rfl

@[simp] theorem issueNext_kind (r : Request) (s : State) :
    (issueNext r s).kind = s.kind := rfl

@[simp] theorem issueNext_len (r : Request) (s : State) :
    (issueNext r s).len = s.len := rfl

@[simp] theorem issueNext_lent (r : Request) (s : State) :
    (issueNext r s).lent = s.lent := rfl

@[simp] theorem issueNext_buf (r : Request) (s : State) :
    (issueNext r s).buf = s.buf := rfl

@[simp] theorem issueNext_pos (r : Request) (s : State) :
    (issueNext r s).pos = s.pos := rfl

@[simp] theorem issueNext_host (r : Request) (s : State) :
    (issueNext r s).host = .command r :: s.host := rfl

@[simp] theorem issueNext_response (r : Request) (s : State) :
    (issueNext r s).response = s.response := rfl

@[simp] theorem issueNext_bitLength (r : Request) (s : State) :
    (issueNext r s).bitLength = s.bitLength := rfl

@[simp] theorem issueNext_position (r : Request) (s : State) :
    (issueNext r s).position = s.position := rfl

@[simp] theorem advanceBy_kind (v : Motion) (n : Nat) (s : State) :
    (advanceBy v n s).kind = s.kind := by cases v <;> rfl

@[simp] theorem advanceBy_len (v : Motion) (n : Nat) (s : State) :
    (advanceBy v n s).len = s.len := by cases v <;> rfl

@[simp] theorem advanceBy_lent (v : Motion) (n : Nat) (s : State) :
    (advanceBy v n s).lent = s.lent := by cases v <;> rfl

@[simp] theorem advanceBy_buf (v : Motion) (n : Nat) (s : State) :
    (advanceBy v n s).buf = s.buf := by cases v <;> rfl

@[simp] theorem advanceBy_host (v : Motion) (n : Nat) (s : State) :
    (advanceBy v n s).host = s.host := by cases v <;> rfl

@[simp] theorem advanceBy_response (v : Motion) (n : Nat) (s : State) :
    (advanceBy v n s).response = s.response := by cases v <;> rfl

@[simp] theorem advanceBy_bitLength (v : Motion) (n : Nat) (s : State) :
    (advanceBy v n s).bitLength = s.bitLength := by cases v <;> rfl

@[simp] theorem advanceBy_stay (n : Nat) (s : State) : advanceBy .stay n s = s := rfl

@[simp] theorem advanceBy_advance (n : Nat) (s : State) :
    advanceBy .advance n s = s.setPosition (s.position + n) := rfl

/-- R9, R34: `BL ≤ 2^31 − 8`, so a position up to `BL` fits `pos`. -/
theorem bitLength_lt (s : State) : s.bitLength < 2147483648 := by
  have := s.len.isLt
  simp only [State.bitLength]
  omega

theorem setPosition_position (p : Nat) (s : State) (h : p ≤ s.bitLength) :
    (s.setPosition p).position = p := by
  have := bitLength_lt s
  simp only [State.position, setPosition_pos, BitVec.toNat_ofNat]
  omega

/-- The field's last byte exists wherever the exhaustion check passes (R141). -/
theorem holdsField_of_available (s : State) (n : Nat) (hn : 1 ≤ n)
    (h : ¬ s.bitLength < s.position + n) : s.holdsField s.position n = true := by
  simp only [State.bitLength] at h
  simp only [State.holdsField, decide_eq_true_eq]
  omega

end Sys2Proof.Machine
end

