-- ==== Sys2Proof/Laws/Access.lean ====
section
/-! SUPPORT. What each shared operation of the commands can do, said once: the provers cite these
instead of unfolding the operation. -/

namespace Sys2Proof.Machine

theorem bitCount_bit (a : Int) : bitCount .bit a = some 1 := rfl

theorem bitCount_eq_none {w : WidthClass} (hw : w ≠ .bit) {a : Int} :
    bitCount w a = none ↔ a < 1 ∨ (classMax w : Int) < a := by
  cases w <;> simp_all [bitCount] <;> omega

theorem bitCount_eq_some {w : WidthClass} (hw : w ≠ .bit) {a : Int} {n : Nat} :
    bitCount w a = some n ↔ a = n ∧ 1 ≤ n ∧ n ≤ classMax w := by
  cases w <;> simp_all [bitCount] <;> omega

/-- A count that passes the width check lies in `1 .. WMAX` (R94). -/
theorem bitCount_bounds {w : WidthClass} {a : Int} {n : Nat} (h : bitCount w a = some n) :
    1 ≤ n ∧ n ≤ classMax w := by
  cases w
  · simp only [bitCount_bit, Option.some.injEq] at h
    subst h
    decide
  all_goals exact ((bitCount_eq_some (by decide)).1 h).2

/-- R160: a read-side access gives one of four next states, and no fault. -/
theorem readAccess_cases (w : WidthClass) (v : Motion) (t : Variant) (a : Int) (s : State) :
    (s.kind = .writer ∧ readAccess w v t a s = .next (raise .errIllegal s)) ∨
    (s.kind = .reader ∧ bitCount w a = none ∧ readAccess w v t a s = .next (raise .errRange s)) ∨
    (∃ n, s.kind = .reader ∧ bitCount w a = some n ∧ s.bitLength < s.position + n ∧
      readAccess w v t a s = .next (raise (exhausted t) s)) ∨
    (∃ n, s.kind = .reader ∧ bitCount w a = some n ∧ s.position + n ≤ s.bitLength ∧
      readAccess w v t a s =
        .next (respond .ok (fieldRead w s.buf s.position n) (advanceBy v n s))) := by
  cases hk : s.kind
  · cases hc : bitCount w a with
    | none => exact .inr (.inl ⟨rfl, rfl, by simp [readAccess, hk, hc]⟩)
    | some n =>
      by_cases he : s.bitLength < s.position + n
      · exact .inr (.inr (.inl ⟨n, rfl, rfl, he, by simp [readAccess, hk, hc, he]⟩))
      · have hh := holdsField_of_available s n (bitCount_bounds hc).1 he
        exact .inr (.inr (.inr ⟨n, rfl, rfl, by omega, by simp [readAccess, hk, hc, he, hh]⟩))
  · exact .inl ⟨rfl, by simp [readAccess, hk]⟩

/-- R200: a write-side access gives one of four next states, and no fault. -/
theorem writeAccess_cases (w : WidthClass) (v : Motion) (t : Variant) (d : Data) (a : Int)
    (s : State) :
    (s.kind = .reader ∧ writeAccess w v t d a s = .next (raise .errIllegal s)) ∨
    (s.kind = .writer ∧ bitCount w a = none ∧ writeAccess w v t d a s = .next (raise .errRange s)) ∨
    (∃ n, s.kind = .writer ∧ bitCount w a = some n ∧ s.bitLength < s.position + n ∧
      writeAccess w v t d a s = .next (raise (exhausted t) s)) ∨
    (∃ n, s.kind = .writer ∧ bitCount w a = some n ∧ s.position + n ≤ s.bitLength ∧
      writeAccess w v t d a s = .next (respond .ok 0 (advanceBy v n
        (s.setBuffer (fieldWrite w s.buf s.position n (writeValue w d)))))) := by
  cases hk : s.kind
  · exact .inl ⟨rfl, by simp [writeAccess, hk]⟩
  · cases hc : bitCount w a with
    | none => exact .inr (.inl ⟨rfl, rfl, by simp [writeAccess, hk, hc]⟩)
    | some n =>
      by_cases he : s.bitLength < s.position + n
      · exact .inr (.inr (.inl ⟨n, rfl, rfl, he, by simp [writeAccess, hk, hc, he]⟩))
      · have hh := holdsField_of_available s n (bitCount_bounds hc).1 he
        exact .inr (.inr (.inr ⟨n, rfl, rfl, by omega, by simp [writeAccess, hk, hc, he, hh]⟩))

/-- R243: the position register is written where the target is in range, and nothing is otherwise. -/
theorem moveTo_cases (p : Int) (s : State) :
    ((p < 0 ∨ (s.bitLength : Int) < p) ∧ moveTo p s = .next (raise .errRange s)) ∨
    (0 ≤ p ∧ p ≤ s.bitLength ∧ moveTo p s = .next (respond .ok 0 (s.setPosition p.toNat))) := by
  by_cases h : p < 0 ∨ (s.bitLength : Int) < p
  · exact .inl ⟨h, by simp [moveTo, h]⟩
  · exact .inr ⟨by omega, by omega, by simp [moveTo, h]⟩

/-- R39: a get operation only answers. -/
theorem answer_eq (value : Nat) (s : State) :
    answer value s = .next (respond .ok (BitVec.ofNat 64 value) s) := rfl

end Sys2Proof.Machine
end

