-- ==== Sys2Proof/Laws/Step.lean ====
section
/-! SUPPORT. What one step can do, by the event at the head of the host's list. -/

namespace Sys2Proof.Machine

theorem step_idle {s : State} (h : s.host = []) : step s = .next s := by
  simp [step, takeEvent, h]

theorem step_reset {s : State} {es : List HostEvent} (h : s.host = .reset :: es) :
    step s = .next (resetUnit (dropEvent s)) := by
  simp [step, takeEvent, h]

theorem step_withdraw {s : State} {es : List HostEvent} (h : s.host = .withdraw :: es) :
    step s = .next (releaseBuffer (dropEvent s)) := by
  simp [step, takeEvent, h]

theorem step_lend {s : State} {es : List HostEvent} {bytes : List Byte}
    (h : s.host = .lend bytes :: es) :
    step s = if bytes.length = s.len.val then .next (bindBuffer bytes (dropEvent s))
      else .refused .bufferLength := by
  by_cases hl : bytes.length = s.len.val <;> simp [step, takeEvent, h, takeBuffer, hl]

theorem step_strayAccess {s : State} {es : List HostEvent} (h : s.host = .strayAccess :: es) :
    step s = if s.lent then .refused .foreignAccess else .next (dropEvent s) := by
  by_cases hl : s.lent = true <;> simp [step, takeEvent, h, takeStrayAccess, hl]

theorem step_strayCommand {s : State} {es : List HostEvent} {r : Request}
    (h : s.host = .strayCommand r :: es) : step s = .refused .secondIssuer := by
  simp [step, takeEvent, h]

/-- R277, step 1, and R303: a command is refused, illegal or run. -/
theorem step_command {s : State} {es : List HostEvent} {r : Request}
    (h : s.host = .command r :: es) :
    step s = if s.lent then
        match decode r with
        | .ok i => exec i (dropEvent s)
        | .error _ => .next (raise .errIllegal (dropEvent s))
      else .refused .bufferWithdrawn := by
  by_cases hl : s.lent = true <;> cases hd : decode r <;>
    simp [step, takeEvent, h, takeCommand, hl, hd]

end Sys2Proof.Machine
end

