-- ==== Sys2Proof/Laws/Command.lean ====
section
/-! SUPPORT. What a request decodes to, by the fields of its OP byte, and what the command then is:
one shared operation of Machine/Access.lean. -/

namespace Sys2Proof.Machine

/-- R93, field `V` as the shared operations take it. -/
def motionOf (v : Bool) : Motion := if v then .advance else .stay

/-- R93, field `T` as the shared operations take it. -/
def variantOf (t : Bool) : Variant := if t then .throwing else .try_

theorem exec_readSide (v t : Bool) (w : WidthClass) (a : Int) (s : State) :
    exec (readSide v t w a) s = readAccess w (motionOf v) (variantOf t) a s := by
  cases v <;> cases t <;> cases w <;> rfl

theorem exec_writeSide (v t : Bool) (w : WidthClass) (value : Data) (a : Int) (s : State) :
    exec (writeSide v t w value a) s =
      writeAccess w (motionOf v) (variantOf t) value a s := by
  cases v <;> cases t <;> cases w <;> rfl

theorem widthOfField_fieldOfWidth (w : WidthClass) : widthOfField (fieldOfWidth w) = some w := by
  cases w <;> rfl

theorem widthOfField_eq_some {f : BitVec 3} {w : WidthClass} :
    widthOfField f = some w ↔ f = fieldOfWidth w := by
  revert f
  cases w <;> decide

theorem widthOfField_eq_none {f : BitVec 3} : widthOfField f = none ↔ 5 ≤ f.toNat := by
  revert f
  decide

theorem signedArg_eq_toInt (arg : Arg) : signedArg arg = arg.toInt := by
  have h : arg.toNat < 4294967296 := arg.isLt
  simp only [signedArg, BitVec.toInt_eq_msb_cond, BitVec.msb_eq_getLsbD_last]
  split <;> simp

/-- R97: `a` lies in `[−2^31, 2^31 − 1]`. -/
theorem argFits_signedArg (arg : Arg) : argFits (signedArg arg) = true := by
  rw [signedArg_eq_toInt]
  have h1 := arg.toInt_lt
  have h2 := arg.le_toInt
  simp only [argFits, decide_eq_true_eq]
  omega

theorem signedArg_argOf {a : Int} (h : argFits a = true) : signedArg (argOf a) = a := by
  rw [signedArg_eq_toInt, argOf, BitVec.toInt_ofInt]
  simp only [argFits, decide_eq_true_eq] at h
  exact Int.bmod_eq_of_le (by omega) (by omega)

/-- R92 to R103: the four things an OP byte can be. -/
theorem decode_cases (r : Request) :
    (r.op.getLsbD 7 = true ∧ r.op.extractLsb 6 3 = 0 ∧
      decode r = .ok (propertySide (r.op.extractLsb 2 0) (signedArg r.arg))) ∨
    ((∃ e, decode r = .error e) ∧
      ((r.op.getLsbD 7 = true ∧ r.op.extractLsb 6 3 ≠ 0) ∨
       (r.op.getLsbD 7 = false ∧ r.op.getLsbD 3 = true) ∨
       (r.op.getLsbD 7 = false ∧ 5 ≤ (r.op.extractLsb 2 0).toNat))) ∨
    (∃ w, r.op.getLsbD 7 = false ∧ r.op.getLsbD 3 = false ∧ r.op.getLsbD 6 = false ∧
      r.op.extractLsb 2 0 = fieldOfWidth w ∧
      decode r = .ok (readSide (r.op.getLsbD 5) (r.op.getLsbD 4) w (signedArg r.arg))) ∨
    (∃ w, r.op.getLsbD 7 = false ∧ r.op.getLsbD 3 = false ∧ r.op.getLsbD 6 = true ∧
      r.op.extractLsb 2 0 = fieldOfWidth w ∧
      decode r =
        .ok (writeSide (r.op.getLsbD 5) (r.op.getLsbD 4) w r.wdata (signedArg r.arg))) := by
  cases h7 : r.op.getLsbD 7
  · cases h3 : r.op.getLsbD 3
    · cases hw : widthOfField (r.op.extractLsb 2 0) with
      | none =>
        exact .inr (.inl ⟨⟨.formatAWidth, by simp only [decode, h7, h3, hw]; rfl⟩,
          .inr (.inr ⟨rfl, widthOfField_eq_none.1 hw⟩)⟩)
      | some w =>
        have hf := widthOfField_eq_some.1 hw
        cases h6 : r.op.getLsbD 6
        · exact .inr (.inr (.inl ⟨w, rfl, rfl, rfl, hf, by simp only [decode, h7, h3, h6, hw]; rfl⟩))
        · exact .inr (.inr (.inr ⟨w, rfl, rfl, rfl, hf, by simp only [decode, h7, h3, h6, hw]; rfl⟩))
    · exact .inr (.inl ⟨⟨.formatABit3, by simp only [decode, h7, h3]; rfl⟩, .inr (.inl ⟨rfl, rfl⟩)⟩)
  · by_cases h6 : r.op.extractLsb 6 3 = 0
    · exact .inl ⟨rfl, h6, by simp only [decode, h7, h6]; rfl⟩
    · exact .inr (.inl ⟨⟨.formatPReserved, by simpa [decode, h7] using h6⟩, .inl ⟨rfl, h6⟩⟩)

end Sys2Proof.Machine
end

