-- ==== Sys2Proof/Laws/Memory.lean ====
section
/-! SUPPORT. Reads after writes of one byte, and the proof that every operation that writes the buffer
keeps its canonical form and its bounds (R60, R65). -/

namespace Sys2Proof.Machine

theorem Memory.wfFrom_mono {lo lo' : Nat} (h : lo' ≤ lo) :
    ∀ {m : Memory}, Memory.wfFrom lo m = true → Memory.wfFrom lo' m = true
  | [], _ => rfl
  | (a, b) :: rest, hm => by
    simp only [Memory.wfFrom, Bool.and_eq_true, decide_eq_true_eq] at hm ⊢
    exact ⟨⟨by omega, hm.1.2⟩, hm.2⟩

/-- An index below every listed one reads as an unlisted byte. -/
theorem Memory.get_of_lt : ∀ {m : Memory} {lo i : Nat},
    Memory.wfFrom lo m = true → i < lo → Memory.get m i = Config.unlistedByte
  | [], _, _, _, _ => rfl
  | (a, b) :: rest, lo, i, hm, hi => by
    simp only [Memory.wfFrom, Bool.and_eq_true, decide_eq_true_eq] at hm
    rw [Memory.get, if_neg (by omega)]
    exact Memory.get_of_lt hm.2 (by omega)

/-- A read after a write, in a canonical buffer. -/
theorem Memory.get_set_from : ∀ {m : Memory} {lo : Nat} (i : Nat) (b : Byte) (j : Nat),
    Memory.wfFrom lo m = true →
    Memory.get (Memory.set m i b) j = if j = i then b else Memory.get m j
  | [], lo, i, b, j, _ => by
    simp only [Memory.set]
    by_cases hb : b = Config.unlistedByte <;> by_cases hj : j = i <;> simp [hb, hj, Memory.get]
  | (a, c) :: rest, lo, i, b, j, hm => by
    simp only [Memory.wfFrom, Bool.and_eq_true, decide_eq_true_eq] at hm
    have ih := Memory.get_set_from (m := rest) (lo := a + 1) i b j hm.2
    simp only [Memory.set]
    by_cases h1 : i < a
    · rw [if_pos h1]
      by_cases hb : b = Config.unlistedByte
      · rw [if_pos hb]
        by_cases hj : j = i
        · subst hj
          rw [if_pos rfl, hb, Memory.get, if_neg (by omega)]
          exact Memory.get_of_lt hm.2 (by omega)
        · rw [if_neg hj]
      · rw [if_neg hb]
        rfl
    · rw [if_neg h1]
      by_cases h2 : i = a
      · rw [if_pos h2]
        by_cases hb : b = Config.unlistedByte
        · rw [if_pos hb]
          by_cases hj : j = i
          · subst hj
            rw [if_pos rfl, hb]
            exact Memory.get_of_lt hm.2 (by omega)
          · rw [if_neg hj, Memory.get, if_neg (by omega)]
        · rw [if_neg hb]
          by_cases hj : j = i
          · rw [if_pos hj, Memory.get, if_pos hj]
          · rw [if_neg hj, Memory.get, if_neg hj, Memory.get, if_neg (by omega)]
      · rw [if_neg h2]
        by_cases hj : j = i
        · subst hj
          rw [Memory.get, if_neg (by omega), ih, if_pos rfl, if_pos rfl]
        · rw [Memory.get, ih, if_neg hj, if_neg hj, Memory.get]

theorem Memory.get_set {m : Memory} (i : Nat) (b : Byte) (j : Nat) (hm : Memory.wf m = true) :
    Memory.get (Memory.set m i b) j = if j = i then b else Memory.get m j :=
  Memory.get_set_from i b j hm

theorem Memory.set_wfFrom : ∀ {m : Memory} {lo : Nat} (i : Nat) (b : Byte),
    lo ≤ i → Memory.wfFrom lo m = true → Memory.wfFrom lo (Memory.set m i b) = true
  | [], lo, i, b, hi, _ => by
    simp only [Memory.set]
    by_cases hb : b = Config.unlistedByte
    · rw [if_pos hb]; rfl
    · simp [hb, Memory.wfFrom, hi]
  | (a, c) :: rest, lo, i, b, hi, hm => by
    have hm0 := hm
    simp only [Memory.wfFrom, Bool.and_eq_true, decide_eq_true_eq] at hm
    simp only [Memory.set]
    by_cases h1 : i < a
    · rw [if_pos h1]
      by_cases hb : b = Config.unlistedByte
      · rw [if_pos hb]; exact hm0
      · rw [if_neg hb]
        simp only [Memory.wfFrom, Bool.and_eq_true, decide_eq_true_eq]
        exact ⟨⟨hi, hb⟩, ⟨by omega, hm.1.2⟩, hm.2⟩
    · rw [if_neg h1]
      by_cases h2 : i = a
      · rw [if_pos h2]
        by_cases hb : b = Config.unlistedByte
        · rw [if_pos hb]; exact Memory.wfFrom_mono (by omega) hm.2
        · rw [if_neg hb]
          simp only [Memory.wfFrom, Bool.and_eq_true, decide_eq_true_eq]
          exact ⟨⟨hi, hb⟩, Memory.wfFrom_mono (by omega) hm.2⟩
      · rw [if_neg h2]
        simp only [Memory.wfFrom, Bool.and_eq_true, decide_eq_true_eq]
        exact ⟨hm.1, Memory.set_wfFrom i b (by omega) hm.2⟩

theorem Memory.set_wf {m : Memory} (i : Nat) (b : Byte) (hm : Memory.wf m = true) :
    Memory.wf (Memory.set m i b) = true := Memory.set_wfFrom i b (Nat.zero_le i) hm

theorem Memory.set_within : ∀ {m : Memory} {n : Nat} (i : Nat) (b : Byte),
    i < n → Memory.within n m = true → Memory.within n (Memory.set m i b) = true
  | [], n, i, b, hi, _ => by
    simp only [Memory.set]
    by_cases hb : b = Config.unlistedByte <;> simp [hb, Memory.within, hi]
  | (a, c) :: rest, n, i, b, hi, hm => by
    have hr : Memory.within n rest = true := by
      simp only [Memory.within, List.all_cons, Bool.and_eq_true] at hm ⊢
      exact hm.2
    have ih := Memory.set_within (m := rest) i b hi hr
    simp only [Memory.within, List.all_cons, Bool.and_eq_true, decide_eq_true_eq] at hm ih hr ⊢
    simp only [Memory.set]
    split
    · split <;> simp [hm, hi]
    · split
      · split <;> simp [hr, hi]
      · simp [hm.1, ih]

/-- Equal contents are equal lists: the canonical form is one list for each buffer. -/
theorem Memory.ext_wfFrom : ∀ {m m' : Memory} {lo : Nat}, Memory.wfFrom lo m = true →
    Memory.wfFrom lo m' = true → (∀ i, Memory.get m i = Memory.get m' i) → m = m'
  | [], [], _, _, _, _ => rfl
  | [], (a, b) :: rest, lo, _, h', hg => by
    simp only [Memory.wfFrom, Bool.and_eq_true, decide_eq_true_eq] at h'
    have := hg a
    simp only [Memory.get, if_true] at this
    exact absurd this.symm h'.1.2
  | (a, b) :: rest, [], lo, h, _, hg => by
    simp only [Memory.wfFrom, Bool.and_eq_true, decide_eq_true_eq] at h
    have := hg a
    simp only [Memory.get, if_true] at this
    exact absurd this h.1.2
  | (a, b) :: rest, (a', b') :: rest', lo, h, h', hg => by
    simp only [Memory.wfFrom, Bool.and_eq_true, decide_eq_true_eq] at h h'
    have head : a = a' := by
      rcases Nat.lt_trichotomy a a' with hlt | heq | hgt
      · have := hg a
        rw [Memory.get, if_pos rfl, Memory.get, if_neg (by omega),
          Memory.get_of_lt h'.2 (by omega)] at this
        exact absurd this h.1.2
      · exact heq
      · have := hg a'
        rw [Memory.get, if_neg (by omega), Memory.get_of_lt h.2 (by omega),
          Memory.get, if_pos rfl] at this
        exact absurd this.symm h'.1.2
    subst head
    have hb : b = b' := by
      have := hg a
      rwa [Memory.get, if_pos rfl, Memory.get, if_pos rfl] at this
    have ht : rest = rest' := by
      refine Memory.ext_wfFrom h.2 h'.2 fun i => ?_
      by_cases hi : i = a
      · rw [Memory.get_of_lt h.2 (by omega), Memory.get_of_lt h'.2 (by omega)]
      · have := hg i
        rwa [Memory.get, if_neg hi, Memory.get, if_neg hi] at this
    rw [hb, ht]

theorem Memory.ext_wf {m m' : Memory} (h : Memory.wf m = true) (h' : Memory.wf m' = true)
    (hg : ∀ i, Memory.get m i = Memory.get m' i) : m = m' := Memory.ext_wfFrom h h' hg

theorem Memory.ofBytesFrom_wfFrom : ∀ (bytes : List Byte) (lo : Nat),
    Memory.wfFrom lo (Memory.ofBytesFrom lo bytes) = true
  | [], _ => rfl
  | b :: rest, lo => by
    have ih := Memory.ofBytesFrom_wfFrom rest (lo + 1)
    simp only [Memory.ofBytesFrom]
    by_cases hb : b = Config.unlistedByte
    · rw [if_pos hb]; exact Memory.wfFrom_mono (by omega) ih
    · rw [if_neg hb]
      simp only [Memory.wfFrom, Bool.and_eq_true, decide_eq_true_eq]
      exact ⟨⟨le_refl lo, hb⟩, ih⟩

theorem Memory.ofBytesFrom_within : ∀ (bytes : List Byte) (lo n : Nat),
    lo + bytes.length ≤ n → Memory.within n (Memory.ofBytesFrom lo bytes) = true
  | [], _, _, _ => rfl
  | b :: rest, lo, n, h => by
    simp only [List.length_cons] at h
    have ih := Memory.ofBytesFrom_within rest (lo + 1) n (by omega)
    simp only [Memory.ofBytesFrom]
    by_cases hb : b = Config.unlistedByte
    · rw [if_pos hb]; exact ih
    · rw [if_neg hb]
      simp only [Memory.within, List.all_cons, Bool.and_eq_true, decide_eq_true_eq] at ih ⊢
      exact ⟨by omega, ih⟩

/-- R302: a buffer made from the host's bytes is canonical and lies within its length. -/
theorem Memory.ofBytes_wf (bytes : List Byte) : Memory.wf (Memory.ofBytes bytes) = true :=
  Memory.ofBytesFrom_wfFrom bytes 0

theorem Memory.ofBytes_within (bytes : List Byte) :
    Memory.within bytes.length (Memory.ofBytes bytes) = true :=
  Memory.ofBytesFrom_within bytes 0 bytes.length (by omega)

/-- What a write of the buffer keeps: the canonical form, and that only bytes below `n` are listed. -/
def Memory.Keeps (n : Nat) (m m' : Memory) : Prop :=
  (Memory.wf m = true → Memory.wf m' = true) ∧
    (Memory.within n m = true → Memory.within n m' = true)

theorem Memory.Keeps.trans {n : Nat} {m m' m'' : Memory} (h : Memory.Keeps n m m')
    (h' : Memory.Keeps n m' m'') : Memory.Keeps n m m'' :=
  ⟨fun x => h'.1 (h.1 x), fun x => h'.2 (h.2 x)⟩

theorem Memory.set_keeps {n : Nat} (m : Memory) (i : Nat) (b : Byte) (hi : i < n) :
    Memory.Keeps n m (Memory.set m i b) :=
  ⟨Memory.set_wf i b, Memory.set_within i b hi⟩

/-- R133, R134, R141: inside the buffer, `ByteWrite` writes only existing bytes. -/
theorem byteWrite_keeps (len : Nat) (m : Memory) (p n : Nat) (v : BitVec 8) (hn : 1 ≤ n)
    (h : p + n ≤ 8 * len) : Memory.Keeps len m (byteWrite m p n v) := by
  simp only [byteWrite]
  split
  · exact Memory.set_keeps _ _ _ (by omega)
  · exact (Memory.set_keeps _ _ _ (by omega)).trans (Memory.set_keeps _ _ _ (by omega))

theorem shortWrite_keeps (len : Nat) (m : Memory) (p n : Nat) (v : BitVec 16) (hn : 1 ≤ n)
    (h : p + n ≤ 8 * len) : Memory.Keeps len m (shortWrite m p n v) := by
  simp only [shortWrite]
  split
  · exact byteWrite_keeps len _ _ _ _ hn h
  · exact (byteWrite_keeps len _ _ _ _ (by omega) (by omega)).trans
      (byteWrite_keeps len _ _ _ _ (by omega) (by omega))

theorem intWrite_keeps (len : Nat) (m : Memory) (p n : Nat) (v : BitVec 32) (hn : 1 ≤ n)
    (h : p + n ≤ 8 * len) : Memory.Keeps len m (intWrite m p n v) := by
  simp only [intWrite]
  split
  · exact shortWrite_keeps len _ _ _ _ hn h
  · exact (shortWrite_keeps len _ _ _ _ (by omega) (by omega)).trans
      (shortWrite_keeps len _ _ _ _ (by omega) (by omega))

theorem longWrite_keeps (len : Nat) (m : Memory) (p n : Nat) (v : BitVec 64) (hn : 1 ≤ n)
    (h : p + n ≤ 8 * len) : Memory.Keeps len m (longWrite m p n v) := by
  simp only [longWrite]
  split
  · exact intWrite_keeps len _ _ _ _ hn h
  · exact (intWrite_keeps len _ _ _ _ (by omega) (by omega)).trans
      (intWrite_keeps len _ _ _ _ (by omega) (by omega))

/-- R200, R141: a field write inside the buffer keeps the canonical form and the bounds. -/
theorem fieldWrite_keeps (w : WidthClass) (len : Nat) (m : Memory) (p n : Nat) (v : Data)
    (hn : 1 ≤ n) (h : p + n ≤ 8 * len) : Memory.Keeps len m (fieldWrite w m p n v) := by
  cases w
  · exact byteWrite_keeps len m p 1 _ (by omega) (by omega)
  · exact byteWrite_keeps len m p n _ hn h
  · exact shortWrite_keeps len m p n _ hn h
  · exact intWrite_keeps len m p n _ hn h
  · exact longWrite_keeps len m p n _ hn h

end Sys2Proof.Machine
end

