-- ==== Sys2Proof/Laws/PerInstr.lean ====
section
/-! SUPPORT. One lemma per command for each family that LAWS.json names. -/

namespace Sys2Proof.Laws.LegalOpcode

/-- R100: the OP byte that carries a command is legal, whatever the other fields hold. -/
def Statement (i : Instr) : Prop :=
  ∀ (arg : Arg) (wdata : Data), (decode ⟨(encode i).op, arg, wdata⟩).isOk = true

theorem of_op {op : Byte} (h : (decode ⟨op, 0, 0⟩).isOk = true) (arg : Arg) (wdata : Data) :
    (decode ⟨op, arg, wdata⟩).isOk = true := by
  simp only [decode] at h ⊢
  split_ifs at h ⊢ <;> first
    | rfl
    | exact h
    | cases hw : widthOfField (op.extractLsb 2 0) <;> simp_all [Except.isOk, Except.toBool]

theorem legal_opA (s v t : Bool) (w : WidthClass) (arg : Arg) (wdata : Data) :
    (decode ⟨opA s v t w, arg, wdata⟩).isOk = true :=
  of_op (by cases s <;> cases v <;> cases t <;> cases w <;> decide) arg wdata

theorem legal_opP (sel : BitVec 3) (arg : Arg) (wdata : Data) :
    (decode ⟨opP sel, arg, wdata⟩).isOk = true :=
  of_op (by revert sel; decide) arg wdata

theorem tryPeekBit : Statement (.tryPeekBit) := legal_opA false false false .bit
theorem peekBit : Statement (.peekBit) := legal_opA false false true .bit
theorem tryReadBit : Statement (.tryReadBit) := legal_opA false true false .bit
theorem readBit : Statement (.readBit) := legal_opA false true true .bit
theorem tryPeekByte (count : Int) : Statement (.tryPeekByte count) := legal_opA false false false .byte
theorem peekByte (count : Int) : Statement (.peekByte count) := legal_opA false false true .byte
theorem tryReadByte (count : Int) : Statement (.tryReadByte count) := legal_opA false true false .byte
theorem readByte (count : Int) : Statement (.readByte count) := legal_opA false true true .byte
theorem tryPeekShort (count : Int) : Statement (.tryPeekShort count) := legal_opA false false false .short
theorem peekShort (count : Int) : Statement (.peekShort count) := legal_opA false false true .short
theorem tryReadShort (count : Int) : Statement (.tryReadShort count) := legal_opA false true false .short
theorem readShort (count : Int) : Statement (.readShort count) := legal_opA false true true .short
theorem tryPeekInt (count : Int) : Statement (.tryPeekInt count) := legal_opA false false false .int
theorem peekInt (count : Int) : Statement (.peekInt count) := legal_opA false false true .int
theorem tryReadInt (count : Int) : Statement (.tryReadInt count) := legal_opA false true false .int
theorem readInt (count : Int) : Statement (.readInt count) := legal_opA false true true .int
theorem tryPeekLong (count : Int) : Statement (.tryPeekLong count) := legal_opA false false false .long
theorem peekLong (count : Int) : Statement (.peekLong count) := legal_opA false false true .long
theorem tryReadLong (count : Int) : Statement (.tryReadLong count) := legal_opA false true false .long
theorem readLong (count : Int) : Statement (.readLong count) := legal_opA false true true .long
theorem tryPokeBit (value : Data) : Statement (.tryPokeBit value) := legal_opA true false false .bit
theorem pokeBit (value : Data) : Statement (.pokeBit value) := legal_opA true false true .bit
theorem tryWriteBit (value : Data) : Statement (.tryWriteBit value) := legal_opA true true false .bit
theorem writeBit (value : Data) : Statement (.writeBit value) := legal_opA true true true .bit
theorem tryPokeByte (value : Data) (count : Int) : Statement (.tryPokeByte value count) := legal_opA true false false .byte
theorem pokeByte (value : Data) (count : Int) : Statement (.pokeByte value count) := legal_opA true false true .byte
theorem tryWriteByte (value : Data) (count : Int) : Statement (.tryWriteByte value count) := legal_opA true true false .byte
theorem writeByte (value : Data) (count : Int) : Statement (.writeByte value count) := legal_opA true true true .byte
theorem tryPokeShort (value : Data) (count : Int) : Statement (.tryPokeShort value count) := legal_opA true false false .short
theorem pokeShort (value : Data) (count : Int) : Statement (.pokeShort value count) := legal_opA true false true .short
theorem tryWriteShort (value : Data) (count : Int) : Statement (.tryWriteShort value count) := legal_opA true true false .short
theorem writeShort (value : Data) (count : Int) : Statement (.writeShort value count) := legal_opA true true true .short
theorem tryPokeInt (value : Data) (count : Int) : Statement (.tryPokeInt value count) := legal_opA true false false .int
theorem pokeInt (value : Data) (count : Int) : Statement (.pokeInt value count) := legal_opA true false true .int
theorem tryWriteInt (value : Data) (count : Int) : Statement (.tryWriteInt value count) := legal_opA true true false .int
theorem writeInt (value : Data) (count : Int) : Statement (.writeInt value count) := legal_opA true true true .int
theorem tryPokeLong (value : Data) (count : Int) : Statement (.tryPokeLong value count) := legal_opA true false false .long
theorem pokeLong (value : Data) (count : Int) : Statement (.pokeLong value count) := legal_opA true false true .long
theorem tryWriteLong (value : Data) (count : Int) : Statement (.tryWriteLong value count) := legal_opA true true false .long
theorem writeLong (value : Data) (count : Int) : Statement (.writeLong value count) := legal_opA true true true .long
theorem new (position : Int) : Statement (.new position) := legal_opP 0
theorem getBitLength : Statement (.getBitLength) := legal_opP 1
theorem getBitPosition : Statement (.getBitPosition) := legal_opP 2
theorem setBitPosition (position : Int) : Statement (.setBitPosition position) := legal_opP 3
theorem getBytePosition : Statement (.getBytePosition) := legal_opP 4
theorem setBytePosition (position : Int) : Statement (.setBytePosition position) := legal_opP 5
theorem getBitOffset : Statement (.getBitOffset) := legal_opP 6
theorem getRemainingBits : Statement (.getRemainingBits) := legal_opP 7

end Sys2Proof.Laws.LegalOpcode
end

