-- ==== Sys2Proof/Tests/Slice0.lean ====
section
/-! SUPPORT. The model's own tests: ill-formed terms refused, every command's word decoded, the spec's
worked examples and vectors (41_reader.md, 42_writer.md, 95_test_vectors.md) run as one step each, and
for every statement with hypotheses a state and operands that meet them, at the bounds. -/

namespace Sys2Proof.Tests

open Sys2Proof.Machine Sys2Proof.Claims

/-- The example buffer `E` of 41_reader.md. -/
def exampleBuffer : List Byte := [0xA7, 0x6B, 0x21, 0x41, 0x81, 0xF1, 0xBD, 0xA5, 0x3C]

/-- A unit over these bytes, at position `p`, with these events to come. -/
def unitOver (kind : Kind) (bytes : List Byte) (p : Nat) (host : List HostEvent) : State where
  kind := kind
  len := Fin.ofNat _ bytes.length
  lent := true
  buf := Memory.ofBytes bytes
  pos := BitVec.ofNat 31 p
  host := host
  response := none

/-- One command on a fresh unit gives this response, position and buffer, and changes nothing else. -/
def runs (kind : Kind) (bytes : List Byte) (p : Nat) (r : Request) (status : Status) (rdata : Data)
    (p' : Nat) (bytes' : List Byte) : Bool :=
  match step (unitOver kind bytes p [.command r]) with
  | .next t =>
    decide (t = { unitOver kind bytes' p' [] with response := some ⟨status, rdata⟩ })
  | _ => false

/-- The next state of a step that has one. -/
def after (s : State) : State :=
  match step s with
  | .next t => t
  | _ => s

/-! ## Well-formedness: a count, offset or position outside the ARG field is refused (R11, R97) -/

theorem test_illFormed_readSideByte :
    (Instr.tryPeekByte 2147483648).wellFormed = false ∧
    (Instr.tryPeekByte (-2147483649)).wellFormed = false ∧
    (Instr.peekByte 2147483648).wellFormed = false ∧
    (Instr.peekByte (-2147483649)).wellFormed = false ∧
    (Instr.tryReadByte 2147483648).wellFormed = false ∧
    (Instr.tryReadByte (-2147483649)).wellFormed = false ∧
    (Instr.readByte 2147483648).wellFormed = false ∧
    (Instr.readByte (-2147483649)).wellFormed = false := by decide

theorem test_illFormed_writeSideByte :
    (Instr.tryPokeByte 1 2147483648).wellFormed = false ∧
    (Instr.tryPokeByte 1 (-2147483649)).wellFormed = false ∧
    (Instr.pokeByte 1 2147483648).wellFormed = false ∧
    (Instr.pokeByte 1 (-2147483649)).wellFormed = false ∧
    (Instr.tryWriteByte 1 2147483648).wellFormed = false ∧
    (Instr.tryWriteByte 1 (-2147483649)).wellFormed = false ∧
    (Instr.writeByte 1 2147483648).wellFormed = false ∧
    (Instr.writeByte 1 (-2147483649)).wellFormed = false := by decide

theorem test_illFormed_readSideShort :
    (Instr.tryPeekShort 2147483648).wellFormed = false ∧
    (Instr.tryPeekShort (-2147483649)).wellFormed = false ∧
    (Instr.peekShort 2147483648).wellFormed = false ∧
    (Instr.peekShort (-2147483649)).wellFormed = false ∧
    (Instr.tryReadShort 2147483648).wellFormed = false ∧
    (Instr.tryReadShort (-2147483649)).wellFormed = false ∧
    (Instr.readShort 2147483648).wellFormed = false ∧
    (Instr.readShort (-2147483649)).wellFormed = false := by decide

theorem test_illFormed_writeSideShort :
    (Instr.tryPokeShort 1 2147483648).wellFormed = false ∧
    (Instr.tryPokeShort 1 (-2147483649)).wellFormed = false ∧
    (Instr.pokeShort 1 2147483648).wellFormed = false ∧
    (Instr.pokeShort 1 (-2147483649)).wellFormed = false ∧
    (Instr.tryWriteShort 1 2147483648).wellFormed = false ∧
    (Instr.tryWriteShort 1 (-2147483649)).wellFormed = false ∧
    (Instr.writeShort 1 2147483648).wellFormed = false ∧
    (Instr.writeShort 1 (-2147483649)).wellFormed = false := by decide

theorem test_illFormed_readSideInt :
    (Instr.tryPeekInt 2147483648).wellFormed = false ∧
    (Instr.tryPeekInt (-2147483649)).wellFormed = false ∧
    (Instr.peekInt 2147483648).wellFormed = false ∧
    (Instr.peekInt (-2147483649)).wellFormed = false ∧
    (Instr.tryReadInt 2147483648).wellFormed = false ∧
    (Instr.tryReadInt (-2147483649)).wellFormed = false ∧
    (Instr.readInt 2147483648).wellFormed = false ∧
    (Instr.readInt (-2147483649)).wellFormed = false := by decide

theorem test_illFormed_writeSideInt :
    (Instr.tryPokeInt 1 2147483648).wellFormed = false ∧
    (Instr.tryPokeInt 1 (-2147483649)).wellFormed = false ∧
    (Instr.pokeInt 1 2147483648).wellFormed = false ∧
    (Instr.pokeInt 1 (-2147483649)).wellFormed = false ∧
    (Instr.tryWriteInt 1 2147483648).wellFormed = false ∧
    (Instr.tryWriteInt 1 (-2147483649)).wellFormed = false ∧
    (Instr.writeInt 1 2147483648).wellFormed = false ∧
    (Instr.writeInt 1 (-2147483649)).wellFormed = false := by decide

theorem test_illFormed_readSideLong :
    (Instr.tryPeekLong 2147483648).wellFormed = false ∧
    (Instr.tryPeekLong (-2147483649)).wellFormed = false ∧
    (Instr.peekLong 2147483648).wellFormed = false ∧
    (Instr.peekLong (-2147483649)).wellFormed = false ∧
    (Instr.tryReadLong 2147483648).wellFormed = false ∧
    (Instr.tryReadLong (-2147483649)).wellFormed = false ∧
    (Instr.readLong 2147483648).wellFormed = false ∧
    (Instr.readLong (-2147483649)).wellFormed = false := by decide

theorem test_illFormed_writeSideLong :
    (Instr.tryPokeLong 1 2147483648).wellFormed = false ∧
    (Instr.tryPokeLong 1 (-2147483649)).wellFormed = false ∧
    (Instr.pokeLong 1 2147483648).wellFormed = false ∧
    (Instr.pokeLong 1 (-2147483649)).wellFormed = false ∧
    (Instr.tryWriteLong 1 2147483648).wellFormed = false ∧
    (Instr.tryWriteLong 1 (-2147483649)).wellFormed = false ∧
    (Instr.writeLong 1 2147483648).wellFormed = false ∧
    (Instr.writeLong 1 (-2147483649)).wellFormed = false := by decide

theorem test_illFormed_property :
    (Instr.new 2147483648).wellFormed = false ∧
    (Instr.new (-2147483649)).wellFormed = false ∧
    (Instr.setBitPosition 2147483648).wellFormed = false ∧
    (Instr.setBitPosition (-2147483649)).wellFormed = false ∧
    (Instr.setBytePosition 2147483648).wellFormed = false ∧
    (Instr.setBytePosition (-2147483649)).wellFormed = false := by decide

theorem test_wellFormed_bounds : (Instr.readByte 2147483647).wellFormed = true ∧
    (Instr.new (-2147483648)).wellFormed = true ∧ (Instr.writeLong 0 65).wellFormed = true := by decide

/-! ## Decoding: OP written out as `0 S V T 0 W` (R93) or `1 0000 sel` (R96), for every command -/

theorem test_decode_readSideBit :
    decode ⟨0b00000000, 77, 0xFE⟩ = .ok .tryPeekBit ∧
    decode ⟨0b00010000, 77, 0xFE⟩ = .ok .peekBit ∧
    decode ⟨0b00100000, 77, 0xFE⟩ = .ok .tryReadBit ∧
    decode ⟨0b00110000, 77, 0xFE⟩ = .ok .readBit := by decide

theorem test_decode_writeSideBit :
    decode ⟨0b01000000, 77, 0xFE⟩ = .ok (.tryPokeBit 0xFE) ∧
    decode ⟨0b01010000, 77, 0xFE⟩ = .ok (.pokeBit 0xFE) ∧
    decode ⟨0b01100000, 77, 0xFE⟩ = .ok (.tryWriteBit 0xFE) ∧
    decode ⟨0b01110000, 77, 0xFE⟩ = .ok (.writeBit 0xFE) := by decide

theorem test_decode_readSideByte :
    decode ⟨0b00000001, 8, 0x1234⟩ = .ok (.tryPeekByte 8) ∧
    decode ⟨0b00010001, 7, 0x1234⟩ = .ok (.peekByte 7) ∧
    decode ⟨0b00100001, 6, 0x1234⟩ = .ok (.tryReadByte 6) ∧
    decode ⟨0b00110001, 5, 0x1234⟩ = .ok (.readByte 5) := by decide

theorem test_decode_writeSideByte :
    decode ⟨0b01000001, 8, 0x1234⟩ = .ok (.tryPokeByte 0x1234 8) ∧
    decode ⟨0b01010001, 7, 0x1234⟩ = .ok (.pokeByte 0x1234 7) ∧
    decode ⟨0b01100001, 6, 0x1234⟩ = .ok (.tryWriteByte 0x1234 6) ∧
    decode ⟨0b01110001, 5, 0x1234⟩ = .ok (.writeByte 0x1234 5) := by decide

theorem test_decode_readSideShort :
    decode ⟨0b00000010, 16, 0x1234⟩ = .ok (.tryPeekShort 16) ∧
    decode ⟨0b00010010, 15, 0x1234⟩ = .ok (.peekShort 15) ∧
    decode ⟨0b00100010, 14, 0x1234⟩ = .ok (.tryReadShort 14) ∧
    decode ⟨0b00110010, 13, 0x1234⟩ = .ok (.readShort 13) := by decide

theorem test_decode_writeSideShort :
    decode ⟨0b01000010, 16, 0x1234⟩ = .ok (.tryPokeShort 0x1234 16) ∧
    decode ⟨0b01010010, 15, 0x1234⟩ = .ok (.pokeShort 0x1234 15) ∧
    decode ⟨0b01100010, 14, 0x1234⟩ = .ok (.tryWriteShort 0x1234 14) ∧
    decode ⟨0b01110010, 13, 0x1234⟩ = .ok (.writeShort 0x1234 13) := by decide

theorem test_decode_readSideInt :
    decode ⟨0b00000011, 32, 0x1234⟩ = .ok (.tryPeekInt 32) ∧
    decode ⟨0b00010011, 31, 0x1234⟩ = .ok (.peekInt 31) ∧
    decode ⟨0b00100011, 30, 0x1234⟩ = .ok (.tryReadInt 30) ∧
    decode ⟨0b00110011, 29, 0x1234⟩ = .ok (.readInt 29) := by decide

theorem test_decode_writeSideInt :
    decode ⟨0b01000011, 32, 0x1234⟩ = .ok (.tryPokeInt 0x1234 32) ∧
    decode ⟨0b01010011, 31, 0x1234⟩ = .ok (.pokeInt 0x1234 31) ∧
    decode ⟨0b01100011, 30, 0x1234⟩ = .ok (.tryWriteInt 0x1234 30) ∧
    decode ⟨0b01110011, 29, 0x1234⟩ = .ok (.writeInt 0x1234 29) := by decide

theorem test_decode_readSideLong :
    decode ⟨0b00000100, 64, 0x1234⟩ = .ok (.tryPeekLong 64) ∧
    decode ⟨0b00010100, 63, 0x1234⟩ = .ok (.peekLong 63) ∧
    decode ⟨0b00100100, 62, 0x1234⟩ = .ok (.tryReadLong 62) ∧
    decode ⟨0b00110100, 61, 0x1234⟩ = .ok (.readLong 61) := by decide

theorem test_decode_writeSideLong :
    decode ⟨0b01000100, 64, 0x1234⟩ = .ok (.tryPokeLong 0x1234 64) ∧
    decode ⟨0b01010100, 63, 0x1234⟩ = .ok (.pokeLong 0x1234 63) ∧
    decode ⟨0b01100100, 62, 0x1234⟩ = .ok (.tryWriteLong 0x1234 62) ∧
    decode ⟨0b01110100, 61, 0x1234⟩ = .ok (.writeLong 0x1234 61) := by decide

theorem test_decode_property :
    decode ⟨0b10000000, 0xFFFFFFFE, 9⟩ = .ok (.new (-2)) ∧
    decode ⟨0b10000001, 0xFFFFFFFE, 9⟩ = .ok .getBitLength ∧
    decode ⟨0b10000010, 0xFFFFFFFE, 9⟩ = .ok .getBitPosition ∧
    decode ⟨0b10000011, 0xFFFFFFFE, 9⟩ = .ok (.setBitPosition (-2)) ∧
    decode ⟨0b10000100, 0xFFFFFFFE, 9⟩ = .ok .getBytePosition ∧
    decode ⟨0b10000101, 0xFFFFFFFE, 9⟩ = .ok (.setBytePosition (-2)) ∧
    decode ⟨0b10000110, 0xFFFFFFFE, 9⟩ = .ok .getBitOffset ∧
    decode ⟨0b10000111, 0xFFFFFFFE, 9⟩ = .ok .getRemainingBits := by decide

theorem test_decode_signedArg : signedArg 0x80000000 = -2147483648 ∧
    signedArg 0x7FFFFFFF = 2147483647 ∧ signedArg 0xFFFFFFFF = -1 := by decide

/-- R100: the three forms of an illegal OP value. -/
theorem test_decode_illegal : decode ⟨0b00001000, 8, 0⟩ = .error .formatABit3 ∧
    decode ⟨0b00000101, 8, 0⟩ = .error .formatAWidth ∧
    decode ⟨0b01110111, 8, 0⟩ = .error .formatAWidth ∧
    decode ⟨0b10001000, 0, 0⟩ = .error .formatPReserved ∧
    decode ⟨0b11000000, 0, 0⟩ = .error .formatPReserved := by decide

/-- Log entry 3: the request as one word. -/
theorem test_decode_tableWord : decodeTableWord 8 0x31 = some (.readByte 0) ∧
    decodeTableWord 40 0x0000000531 = some (.readByte 5) ∧
    decodeTableWord 104 0x00000000DEADBEEF0000002073 = some (.writeInt 0xDEADBEEF 32) ∧
    decodeTableWord 8 0x08 = none := by decide

theorem test_withFetchWord_runs_next :
    (after (State.reset.withFetchWord 40 0x0000000783)).position = 7 := by decide

/-! ## Effects: one example of the spec for every command, then the boundary vectors -/

theorem test_tryPeekBit :
    runs .reader [0xA7] 2 ⟨0b00000000, 0, 0⟩ .ok 1 2
      [0xA7] = true := by decide

theorem test_peekBit :
    runs .reader exampleBuffer 9 ⟨0b00010000, 0, 0⟩ .ok 1 9
      exampleBuffer = true := by decide

theorem test_tryReadBit :
    runs .reader exampleBuffer 0 ⟨0b00100000, 0, 0⟩ .ok 1 1
      exampleBuffer = true := by decide

theorem test_readBit :
    runs .reader exampleBuffer 71 ⟨0b00110000, 0, 0⟩ .ok 0 72
      exampleBuffer = true := by decide

theorem test_tryPeekByte :
    runs .reader [0xA7, 0x6B] 1 ⟨0b00000001, 8, 0⟩ .ok 0x4E 1
      [0xA7, 0x6B] = true := by decide

theorem test_peekByte :
    runs .reader exampleBuffer 13 ⟨0b00010001, 5, 0⟩ .ok 0x0C 13
      exampleBuffer = true := by decide

theorem test_tryReadByte :
    runs .reader exampleBuffer 4 ⟨0b00100001, 4, 0⟩ .ok 0x07 8
      exampleBuffer = true := by decide

theorem test_readByte :
    runs .reader exampleBuffer 7 ⟨0b00110001, 8, 0⟩ .ok 0xB5 15
      exampleBuffer = true := by decide

theorem test_tryPeekShort :
    runs .reader exampleBuffer 3 ⟨0b00000010, 16, 0⟩ .ok 0x3B59 3
      exampleBuffer = true := by decide

theorem test_peekShort :
    runs .reader exampleBuffer 0 ⟨0b00010010, 12, 0⟩ .ok 0x0A76 0
      exampleBuffer = true := by decide

theorem test_tryReadShort :
    runs .reader exampleBuffer 17 ⟨0b00100010, 9, 0⟩ .ok 0x0085 26
      exampleBuffer = true := by decide

theorem test_readShort :
    runs .reader exampleBuffer 8 ⟨0b00110010, 16, 0⟩ .ok 0x6B21 24
      exampleBuffer = true := by decide

theorem test_tryPeekInt :
    runs .reader exampleBuffer 5 ⟨0b00000011, 32, 0⟩ .ok 0xED642830 5
      exampleBuffer = true := by decide

theorem test_peekInt :
    runs .reader exampleBuffer 0 ⟨0b00010011, 20, 0⟩ .ok 0x000A76B2 0
      exampleBuffer = true := by decide

theorem test_tryReadInt :
    runs .reader exampleBuffer 16 ⟨0b00100011, 32, 0⟩ .ok 0x214181F1 48
      exampleBuffer = true := by decide

theorem test_readInt :
    runs .reader exampleBuffer 3 ⟨0b00110011, 27, 0⟩ .ok 0x01DAC850 30
      exampleBuffer = true := by decide

theorem test_tryPeekLong :
    runs .reader exampleBuffer 0 ⟨0b00000100, 64, 0⟩ .ok 0xA76B214181F1BDA5 0
      exampleBuffer = true := by decide

theorem test_peekLong :
    runs .reader exampleBuffer 7 ⟨0b00010100, 64, 0⟩ .ok 0xB590A0C0F8DED29E 7
      exampleBuffer = true := by decide

theorem test_tryReadLong :
    runs .reader exampleBuffer 4 ⟨0b00100100, 40, 0⟩ .ok 0x00000076B214181F 44
      exampleBuffer = true := by decide

theorem test_readLong :
    runs .reader exampleBuffer 1 ⟨0b00110100, 33, 0⟩ .ok 0x000000009DAC8506 34
      exampleBuffer = true := by decide

theorem test_tryPokeBit :
    runs .writer exampleBuffer 2 ⟨0b01000000, 0, 0⟩ .ok 0 2
      [0x87, 0x6B, 0x21, 0x41, 0x81, 0xF1, 0xBD, 0xA5, 0x3C] = true := by decide

theorem test_pokeBit :
    runs .writer exampleBuffer 71 ⟨0b01010000, 0, 0x1⟩ .ok 0 71
      [0xA7, 0x6B, 0x21, 0x41, 0x81, 0xF1, 0xBD, 0xA5, 0x3D] = true := by decide

theorem test_tryWriteBit :
    runs .writer exampleBuffer 8 ⟨0b01100000, 0, 0x1⟩ .ok 0 9
      [0xA7, 0xEB, 0x21, 0x41, 0x81, 0xF1, 0xBD, 0xA5, 0x3C] = true := by decide

theorem test_writeBit :
    runs .writer exampleBuffer 15 ⟨0b01110000, 0, 0⟩ .ok 0 16
      [0xA7, 0x6A, 0x21, 0x41, 0x81, 0xF1, 0xBD, 0xA5, 0x3C] = true := by decide

theorem test_tryPokeByte :
    runs .writer [0x21] 0 ⟨0b01000001, 4, 0xbd⟩ .ok 0 0
      [0xD1] = true := by decide

theorem test_pokeByte :
    runs .writer exampleBuffer 6 ⟨0b01010001, 5, 0x1f⟩ .ok 0 6
      [0xA7, 0xEB, 0x21, 0x41, 0x81, 0xF1, 0xBD, 0xA5, 0x3C] = true := by decide

theorem test_tryWriteByte :
    runs .writer exampleBuffer 12 ⟨0b01100001, 8, 0⟩ .ok 0 20
      [0xA7, 0x60, 0x01, 0x41, 0x81, 0xF1, 0xBD, 0xA5, 0x3C] = true := by decide

theorem test_writeByte :
    runs .writer exampleBuffer 3 ⟨0b01110001, 3, 0xf0⟩ .ok 0 6
      [0xA3, 0x6B, 0x21, 0x41, 0x81, 0xF1, 0xBD, 0xA5, 0x3C] = true := by decide

theorem test_tryPokeShort :
    runs .writer exampleBuffer 5 ⟨0b01000010, 16, 0xffff⟩ .ok 0 5
      [0xA7, 0xFF, 0xF9, 0x41, 0x81, 0xF1, 0xBD, 0xA5, 0x3C] = true := by decide

theorem test_pokeShort :
    runs .writer exampleBuffer 0 ⟨0b01010010, 10, 0⟩ .ok 0 0
      [0x00, 0x2B, 0x21, 0x41, 0x81, 0xF1, 0xBD, 0xA5, 0x3C] = true := by decide

theorem test_tryWriteShort :
    runs .writer exampleBuffer 9 ⟨0b01100010, 13, 0x1abc⟩ .ok 0 22
      [0xA7, 0x6A, 0xF1, 0x41, 0x81, 0xF1, 0xBD, 0xA5, 0x3C] = true := by decide

theorem test_writeShort :
    runs .writer [0x21, 0x41, 0x81, 0xF1] 16 ⟨0b01110010, 16, 0xbda5⟩ .ok 0 32
      [0x21, 0x41, 0xBD, 0xA5] = true := by decide

theorem test_tryPokeInt :
    runs .writer exampleBuffer 4 ⟨0b01000011, 32, 0x12345678⟩ .ok 0 4
      [0xA1, 0x23, 0x45, 0x67, 0x81, 0xF1, 0xBD, 0xA5, 0x3C] = true := by decide

theorem test_pokeInt :
    runs .writer exampleBuffer 1 ⟨0b01010011, 17, 0x1ffff⟩ .ok 0 1
      [0xFF, 0xFF, 0xE1, 0x41, 0x81, 0xF1, 0xBD, 0xA5, 0x3C] = true := by decide

theorem test_tryWriteInt :
    runs .writer exampleBuffer 16 ⟨0b01100011, 32, 0xdeadbeef⟩ .ok 0 48
      [0xA7, 0x6B, 0xDE, 0xAD, 0xBE, 0xEF, 0xBD, 0xA5, 0x3C] = true := by decide

theorem test_writeInt :
    runs .writer exampleBuffer 7 ⟨0b01110011, 25, 0⟩ .ok 0 32
      [0xA6, 0x00, 0x00, 0x00, 0x81, 0xF1, 0xBD, 0xA5, 0x3C] = true := by decide

theorem test_tryPokeLong :
    runs .writer exampleBuffer 7 ⟨0b01000100, 64, 0x123456789abcdef⟩ .ok 0 7
      [0xA6, 0x02, 0x46, 0x8A, 0xCF, 0x13, 0x57, 0x9B, 0xDE] = true := by decide

theorem test_pokeLong :
    runs .writer exampleBuffer 0 ⟨0b01010100, 64, 0xffffffffffffffff⟩ .ok 0 0
      [0xFF, 0xFF, 0xFF, 0xFF, 0xFF, 0xFF, 0xFF, 0xFF, 0x3C] = true := by decide

theorem test_tryWriteLong :
    runs .writer exampleBuffer 3 ⟨0b01100100, 36, 0xfedcba987⟩ .ok 0 39
      [0xBF, 0xDB, 0x97, 0x53, 0x0F, 0xF1, 0xBD, 0xA5, 0x3C] = true := by decide

theorem test_writeLong :
    runs .writer exampleBuffer 8 ⟨0b01110100, 64, 0⟩ .ok 0 72
      [0xA7, 0x00, 0x00, 0x00, 0x00, 0x00, 0x00, 0x00, 0x00] = true := by decide

theorem test_vector_VRB1 :
    runs .reader [0xA7] 2 ⟨0b00000000, 0, 0⟩ .ok 0x1 2
      [0xA7] = true := by decide

theorem test_vector_VRB3 :
    runs .reader [0xA7] 8 ⟨0b00100000, 0, 0⟩ .fail 0x0 8
      [0xA7] = true := by decide

theorem test_vector_VRB4 :
    runs .reader [0xA7] 8 ⟨0b00110000, 0, 0⟩ .errEos 0x0 8
      [0xA7] = true := by decide

theorem test_vector_VRB5 :
    runs .reader [] 0 ⟨0b00010000, 0, 0⟩ .errEos 0x0 0
      [] = true := by decide

theorem test_vector_VRY6 :
    runs .reader [0xA7, 0x6B] 9 ⟨0b00100001, 8, 0⟩ .fail 0x0 9
      [0xA7, 0x6B] = true := by decide

theorem test_vector_VRY7 :
    runs .reader [0xA7, 0x6B] 9 ⟨0b00110001, 8, 0⟩ .errEos 0x0 9
      [0xA7, 0x6B] = true := by decide

theorem test_vector_VRY8 :
    runs .reader [0xA7, 0x6B] 0 ⟨0b00010001, 0, 0⟩ .errRange 0x0 0
      [0xA7, 0x6B] = true := by decide

theorem test_vector_VRY9 :
    runs .reader [0xA7, 0x6B] 0 ⟨0b00000001, 0xFFFFFFFF, 0⟩ .errRange 0x0 0
      [0xA7, 0x6B] = true := by decide

theorem test_vector_VRS2 :
    runs .reader exampleBuffer 3 ⟨0b00010010, 16, 0⟩ .ok 0x3B59 3
      exampleBuffer = true := by decide

theorem test_vector_VRS4 :
    runs .reader exampleBuffer 5 ⟨0b00100010, 9, 0⟩ .ok 0x1DA 14
      exampleBuffer = true := by decide

theorem test_vector_VRS6 :
    runs .reader exampleBuffer 57 ⟨0b00000010, 16, 0⟩ .fail 0x0 57
      exampleBuffer = true := by decide

theorem test_vector_VRS7 :
    runs .reader exampleBuffer 0 ⟨0b00110010, 17, 0⟩ .errRange 0x0 0
      exampleBuffer = true := by decide

theorem test_vector_VRI2 :
    runs .reader exampleBuffer 5 ⟨0b00010011, 32, 0⟩ .ok 0xED642830 5
      exampleBuffer = true := by decide

theorem test_vector_VRI5 :
    runs .reader exampleBuffer 41 ⟨0b00110011, 32, 0⟩ .errEos 0x0 41
      exampleBuffer = true := by decide

theorem test_vector_VRI6 :
    runs .reader exampleBuffer 0 ⟨0b00100011, 33, 0⟩ .errRange 0x0 0
      exampleBuffer = true := by decide

theorem test_vector_VRL2 :
    runs .reader exampleBuffer 7 ⟨0b00110100, 64, 0⟩ .ok 0xB590A0C0F8DED29E 71
      exampleBuffer = true := by decide

theorem test_vector_VRL4 :
    runs .reader exampleBuffer 9 ⟨0b00100100, 64, 0⟩ .fail 0x0 9
      exampleBuffer = true := by decide

theorem test_vector_VRL6 :
    runs .reader exampleBuffer 0 ⟨0b00010100, 65, 0⟩ .errRange 0x0 0
      exampleBuffer = true := by decide

theorem test_vector_VWB1 :
    runs .writer [0xA7] 2 ⟨0b01000000, 0, 0⟩ .ok 0x0 2
      [0x87] = true := by decide

theorem test_vector_VWB3 :
    runs .writer [0xFF] 0 ⟨0b01010000, 0, 0xfe⟩ .ok 0x0 0
      [0x7F] = true := by decide

theorem test_vector_VWB4 :
    runs .writer [0xA7] 8 ⟨0b01100000, 0, 0x1⟩ .fail 0x0 8
      [0xA7] = true := by decide

theorem test_vector_VWB5 :
    runs .writer [0xA7] 8 ⟨0b01110000, 0, 0x1⟩ .errEos 0x0 8
      [0xA7] = true := by decide

theorem test_vector_VWY1 :
    runs .writer [0x21] 0 ⟨0b01000001, 4, 0xbd⟩ .ok 0x0 0
      [0xD1] = true := by decide

theorem test_vector_VWY4 :
    runs .writer [0x5A] 0 ⟨0b01010001, 8, 0xc3⟩ .ok 0x0 0
      [0xC3] = true := by decide

theorem test_vector_VWY6 :
    runs .writer [0xA7, 0x6B] 9 ⟨0b01100001, 8, 0⟩ .fail 0x0 9
      [0xA7, 0x6B] = true := by decide

theorem test_vector_VWY7 :
    runs .writer [0xA7, 0x6B] 9 ⟨0b01110001, 8, 0⟩ .errEos 0x0 9
      [0xA7, 0x6B] = true := by decide

theorem test_vector_VWS2 :
    runs .writer [0x21, 0x41] 8 ⟨0b01100010, 16, 0xbda5⟩ .fail 0x0 8
      [0x21, 0x41] = true := by decide

theorem test_vector_VWS3 :
    runs .writer [0x21, 0x41] 8 ⟨0b01110010, 16, 0xbda5⟩ .errEos 0x0 8
      [0x21, 0x41] = true := by decide

theorem test_vector_VWS7 :
    runs .writer [0xFF, 0xFF] 0 ⟨0b01010010, 17, 0⟩ .errRange 0x0 0
      [0xFF, 0xFF] = true := by decide

theorem test_vector_VWI2 :
    runs .writer [0xFF, 0xFF, 0xFF, 0xFF] 0 ⟨0b01010011, 20, 0x12345⟩ .ok 0x0 0
      [0x12, 0x34, 0x5F, 0xFF] = true := by decide

theorem test_vector_VWI4 :
    runs .writer [0xFF, 0xFF, 0xFF, 0xFF] 1 ⟨0b01100011, 32, 0⟩ .fail 0x0 1
      [0xFF, 0xFF, 0xFF, 0xFF] = true := by decide

theorem test_vector_VWI5 :
    runs .writer [0xFF, 0xFF, 0xFF, 0xFF] 0 ⟨0b01110011, 0xFFFFFFF9, 0⟩ .errRange 0x0 0
      [0xFF, 0xFF, 0xFF, 0xFF] = true := by decide

theorem test_vector_VWL2 :
    runs .writer [0xFF, 0xFF, 0xFF, 0xFF, 0xFF, 0xFF, 0xFF, 0xFF, 0xFF] 7 ⟨0b01010100, 64, 0⟩ .ok 0x0 7
      [0xFE, 0x00, 0x00, 0x00, 0x00, 0x00, 0x00, 0x00, 0x01] = true := by decide

theorem test_vector_VWL4 :
    runs .writer [0x00, 0x00, 0x00, 0x00, 0x00, 0x00, 0x00, 0x00] 1 ⟨0b01100100, 64, 0x1⟩ .fail 0x0 1
      [0x00, 0x00, 0x00, 0x00, 0x00, 0x00, 0x00, 0x00] = true := by decide

theorem test_vector_VWL5 :
    runs .writer [0x00, 0x00, 0x00, 0x00, 0x00, 0x00, 0x00, 0x00] 0 ⟨0b01110100, 65, 0x1⟩ .errRange 0x0 0
      [0x00, 0x00, 0x00, 0x00, 0x00, 0x00, 0x00, 0x00] = true := by decide

theorem test_vector_VC1 :
    runs .reader [0x00, 0x00, 0x00, 0x00] 0 ⟨0b10000000, 17, 0⟩ .ok 0x0 17
      [0x00, 0x00, 0x00, 0x00] = true := by decide

theorem test_vector_VC2 :
    runs .reader [0x00, 0x00, 0x00, 0x00] 5 ⟨0b10000000, 32, 0⟩ .ok 0x0 32
      [0x00, 0x00, 0x00, 0x00] = true := by decide

theorem test_vector_VC6 :
    runs .reader [0x00, 0x00, 0x00, 0x00] 17 ⟨0b10000001, 0, 0⟩ .ok 0x20 17
      [0x00, 0x00, 0x00, 0x00] = true := by decide

theorem test_vector_VC7 :
    runs .reader [0x00, 0x00, 0x00, 0x00] 17 ⟨0b10000010, 0, 0⟩ .ok 0x11 17
      [0x00, 0x00, 0x00, 0x00] = true := by decide

theorem test_vector_VC8 :
    runs .writer [0x00, 0x00, 0x00, 0x00] 17 ⟨0b10000011, 3, 0⟩ .ok 0x0 3
      [0x00, 0x00, 0x00, 0x00] = true := by decide

theorem test_vector_VC9 :
    runs .writer [0x00, 0x00, 0x00, 0x00] 17 ⟨0b10000011, 33, 0⟩ .errRange 0x0 17
      [0x00, 0x00, 0x00, 0x00] = true := by decide

theorem test_vector_VC10 :
    runs .reader [0x00, 0x00, 0x00, 0x00] 17 ⟨0b10000100, 0, 0⟩ .ok 0x2 17
      [0x00, 0x00, 0x00, 0x00] = true := by decide

theorem test_vector_VC11 :
    runs .reader [0x00, 0x00, 0x00, 0x00] 19 ⟨0b10000101, 1, 0⟩ .ok 0x0 8
      [0x00, 0x00, 0x00, 0x00] = true := by decide

theorem test_vector_VC12 :
    runs .reader [0x00, 0x00, 0x00, 0x00] 19 ⟨0b10000101, 4, 0⟩ .ok 0x0 32
      [0x00, 0x00, 0x00, 0x00] = true := by decide

theorem test_vector_VC16 :
    runs .reader [0x00, 0x00, 0x00, 0x00] 17 ⟨0b10000110, 0, 0⟩ .ok 0x1 17
      [0x00, 0x00, 0x00, 0x00] = true := by decide

theorem test_vector_VC17 :
    runs .reader [0x00, 0x00, 0x00, 0x00] 32 ⟨0b10000110, 0, 0⟩ .ok 0x0 32
      [0x00, 0x00, 0x00, 0x00] = true := by decide

theorem test_vector_VC18 :
    runs .reader [0x00, 0x00, 0x00, 0x00] 17 ⟨0b10000111, 0, 0⟩ .ok 0xF 17
      [0x00, 0x00, 0x00, 0x00] = true := by decide

theorem test_vector_VC19 :
    runs .writer [0x00, 0x00, 0x00, 0x00] 32 ⟨0b10000111, 0, 0⟩ .ok 0x0 32
      [0x00, 0x00, 0x00, 0x00] = true := by decide

theorem test_vector_VD1 :
    runs .reader [0xA7] 0 ⟨0b00000101, 0, 0⟩ .errIllegal 0x0 0
      [0xA7] = true := by decide

theorem test_vector_VD2 :
    runs .reader [0xA7] 0 ⟨0b00001000, 8, 0⟩ .errIllegal 0x0 0
      [0xA7] = true := by decide

theorem test_vector_VD3 :
    runs .reader [0xA7] 0 ⟨0b00111111, 8, 0⟩ .errIllegal 0x0 0
      [0xA7] = true := by decide

theorem test_vector_VD4 :
    runs .reader [0xA7] 0 ⟨0b10001000, 0, 0⟩ .errIllegal 0x0 0
      [0xA7] = true := by decide

theorem test_vector_VD5 :
    runs .reader [0xA7] 0 ⟨0b11111111, 0, 0⟩ .errIllegal 0x0 0
      [0xA7] = true := by decide

theorem test_vector_VD8 :
    runs .reader [0xA7] 8 ⟨0b00001001, 0, 0⟩ .errIllegal 0x0 8
      [0xA7] = true := by decide
/-- Vector VX-1 of 95_test_vectors.md. -/
theorem test_vector_VX1 : after (unitOver .reader [0xA7, 0x6B] 13 [.reset]) =
    unitOver .reader [0xA7, 0x6B] 0 [] := by decide

/-- Vector VX-2 of 95_test_vectors.md, first step: reset does not clear the buffer. -/
theorem test_vector_VX2 : (after (unitOver .writer [0x00, 0xFF] 16 [.reset])).buf = [(1, 0xFF)] := by
  decide

/-! ## Laws of the buffer on small values -/

theorem test_memory_canonical : Memory.ofBytes [0, 7, 0, 9] = [(1, 7), (3, 9)] ∧
    Memory.set [(1, 7), (3, 9)] 3 0 = [(1, 7)] ∧
    Memory.set [(1, 7), (3, 9)] 2 5 = [(1, 7), (2, 5), (3, 9)] ∧
    Memory.wf [(1, 7), (3, 9)] = true ∧ Memory.wf [(3, 9), (1, 7)] = false ∧
    Memory.wf [(1, 0)] = false := by decide

theorem test_refused_without_buffer :
    step { unitOver .reader [1] 0 [.command ⟨0x31, 8, 0⟩] with lent := false } =
      .refused .bufferWithdrawn := rfl

/-! ## Witnesses: for every statement with hypotheses, states and operands that meet them -/

theorem witness_DecodeInvertsEncode : (Instr.readByte 2147483647).wellFormed = true ∧
    (Instr.setBitPosition (-2147483648)).wellFormed = true ∧
    (Instr.writeLong 0xFFFFFFFFFFFFFFFF (-1)).wellFormed = true := by decide

theorem witness_EncodeInvertsDecode : decode ⟨0x10, 0xFFFFFFFB, 0xFFFF⟩ = .ok .peekBit ∧
    decode ⟨0x74, 0x80000000, 0xFFFF⟩ = .ok (.writeLong 0xFFFF (-2147483648)) ∧
    decode ⟨0x87, 0, 0⟩ = .ok .getRemainingBits := by decide

theorem witness_IllegalOpcodesAnswerIllegal :
    Issued (unitOver .reader [0xA7] 8 [.command ⟨0x09, 0, 0⟩]) ⟨0x09, 0, 0⟩ [] ∧
    illegalOp 0x09 = true ∧ illegalOp 0x05 = true ∧ illegalOp 0x77 = true ∧
    illegalOp 0x88 = true ∧ illegalOp 0x87 = false := by
  refine ⟨⟨rfl, rfl⟩, ?_⟩
  decide

theorem witness_WrongSideAnswersIllegal :
    Issued (unitOver .reader [0xA7] 0 [.command ⟨0x71, 8, 0xFF⟩]) ⟨0x71, 8, 0xFF⟩ [] ∧
    Issued (unitOver .writer [0xA7] 0 [.command ⟨0x31, 8, 0⟩]) ⟨0x31, 8, 0⟩ [] ∧
    (0x71#8).getLsbD 7 = false ∧ (0x31#8).getLsbD 7 = false ∧
    wrongSide .reader 0x71 = true ∧ wrongSide .writer 0x31 = true ∧
    wrongSide .reader 0x31 = false ∧ wrongSide .writer 0x71 = false ∧
    illegalOp 0x31 = false ∧ illegalOp 0x71 = false := by
  refine ⟨⟨rfl, rfl⟩, ⟨rfl, rfl⟩, ?_⟩
  decide

theorem witness_StepRunsDecodedCommand :
    Issued (unitOver .reader [0xA7] 0 [.command ⟨0x31, 8, 0⟩, .reset]) ⟨0x31, 8, 0⟩ [.reset] ∧
    decode ⟨0x31, 8, 0⟩ = .ok (.readByte 8) := by
  refine ⟨⟨rfl, rfl⟩, ?_⟩
  decide

/-- At `pos = BL` one bit is too many and at `pos = BL − 1` it is the last one; a Writer exists. -/
theorem witness_BitReadCommands : (unitOver .reader [0xA7] 8 []).kind = .reader ∧
    remaining (unitOver .reader [0xA7] 8 []) < 1 ∧ 1 ≤ remaining (unitOver .reader [0xA7] 7 []) ∧
    (unitOver .writer [0xA7] 8 []).kind = .writer := by decide

/-- Counts 0, 9, 1 and 8, and 7 and 8 bits left. -/
theorem witness_ByteReadCommands : (0 : Int) < 1 ∧ (8 : Int) < 9 ∧ (1 : Int) ≤ 8 ∧
    (unitOver .reader exampleBuffer 64 []).kind = .reader ∧
    remaining (unitOver .reader exampleBuffer 65 []) < 8 ∧
    8 ≤ remaining (unitOver .reader exampleBuffer 64 []) ∧
    (unitOver .writer exampleBuffer 64 []).kind = .writer := by decide

/-- Counts 0, 17, 1 and 16, and 15 and 16 bits left. -/
theorem witness_ShortReadCommands : (0 : Int) < 1 ∧ (16 : Int) < 17 ∧ (1 : Int) ≤ 16 ∧
    (unitOver .reader exampleBuffer 56 []).kind = .reader ∧
    remaining (unitOver .reader exampleBuffer 57 []) < 16 ∧
    16 ≤ remaining (unitOver .reader exampleBuffer 56 []) ∧
    (unitOver .writer exampleBuffer 56 []).kind = .writer := by decide

/-- Counts 0, 33, 1 and 32, and 31 and 32 bits left. -/
theorem witness_IntReadCommands : (0 : Int) < 1 ∧ (32 : Int) < 33 ∧ (1 : Int) ≤ 32 ∧
    (unitOver .reader exampleBuffer 40 []).kind = .reader ∧
    remaining (unitOver .reader exampleBuffer 41 []) < 32 ∧
    32 ≤ remaining (unitOver .reader exampleBuffer 40 []) ∧
    (unitOver .writer exampleBuffer 40 []).kind = .writer := by decide

/-- Counts 0, 65, 1 and 64, and 63 and 64 bits left. -/
theorem witness_LongReadCommands : (0 : Int) < 1 ∧ (64 : Int) < 65 ∧ (1 : Int) ≤ 64 ∧
    (unitOver .reader exampleBuffer 8 []).kind = .reader ∧
    remaining (unitOver .reader exampleBuffer 9 []) < 64 ∧
    64 ≤ remaining (unitOver .reader exampleBuffer 8 []) ∧
    (unitOver .writer exampleBuffer 8 []).kind = .writer := by decide

theorem witness_BitWriteCommands : (unitOver .writer [0xA7] 8 []).kind = .writer ∧
    remaining (unitOver .writer [0xA7] 8 []) < 1 ∧ 1 ≤ remaining (unitOver .writer [0xA7] 7 []) ∧
    Memory.wf (unitOver .writer [0xA7] 7 []).buf = true ∧
    (unitOver .reader [0xA7] 8 []).kind = .reader := by decide

/-- Counts 0, 9, 1 and 8, and 7 and 8 bits left. -/
theorem witness_ByteWriteCommands : (0 : Int) < 1 ∧ (8 : Int) < 9 ∧ (1 : Int) ≤ 8 ∧
    (unitOver .writer exampleBuffer 64 []).kind = .writer ∧
    remaining (unitOver .writer exampleBuffer 65 []) < 8 ∧
    8 ≤ remaining (unitOver .writer exampleBuffer 64 []) ∧
    Memory.wf (unitOver .writer exampleBuffer 64 []).buf = true ∧
    (unitOver .reader exampleBuffer 64 []).kind = .reader := by decide

/-- Counts 0, 17, 1 and 16, and 15 and 16 bits left. -/
theorem witness_ShortWriteCommands : (0 : Int) < 1 ∧ (16 : Int) < 17 ∧ (1 : Int) ≤ 16 ∧
    (unitOver .writer exampleBuffer 56 []).kind = .writer ∧
    remaining (unitOver .writer exampleBuffer 57 []) < 16 ∧
    16 ≤ remaining (unitOver .writer exampleBuffer 56 []) ∧
    Memory.wf (unitOver .writer exampleBuffer 56 []).buf = true ∧
    (unitOver .reader exampleBuffer 56 []).kind = .reader := by decide

/-- Counts 0, 33, 1 and 32, and 31 and 32 bits left. -/
theorem witness_IntWriteCommands : (0 : Int) < 1 ∧ (32 : Int) < 33 ∧ (1 : Int) ≤ 32 ∧
    (unitOver .writer exampleBuffer 40 []).kind = .writer ∧
    remaining (unitOver .writer exampleBuffer 41 []) < 32 ∧
    32 ≤ remaining (unitOver .writer exampleBuffer 40 []) ∧
    Memory.wf (unitOver .writer exampleBuffer 40 []).buf = true ∧
    (unitOver .reader exampleBuffer 40 []).kind = .reader := by decide

/-- Counts 0, 65, 1 and 64, and 63 and 64 bits left. -/
theorem witness_LongWriteCommands : (0 : Int) < 1 ∧ (64 : Int) < 65 ∧ (1 : Int) ≤ 64 ∧
    (unitOver .writer exampleBuffer 8 []).kind = .writer ∧
    remaining (unitOver .writer exampleBuffer 9 []) < 64 ∧
    64 ≤ remaining (unitOver .writer exampleBuffer 8 []) ∧
    Memory.wf (unitOver .writer exampleBuffer 8 []).buf = true ∧
    (unitOver .reader exampleBuffer 8 []).kind = .reader := by decide

/-- Both bounds from each side: `−1`, `0`, `BL` and `BL + 1`. -/
theorem witness_NewConstructsAtOffset : (-1 : Int) < 0 ∧
    ((unitOver .reader [0, 0, 0, 0] 5 []).bitLength : Int) < 33 ∧
    (0 : Int) ≤ 32 ∧ (32 : Int) ≤ (unitOver .reader [0, 0, 0, 0] 5 []).bitLength ∧
    (0 : Int) ≤ (unitOver .reader [] 0 []).bitLength := by decide

theorem witness_SetBitPositionMoves : (-1 : Int) < 0 ∧
    ((unitOver .writer [0, 0, 0, 0] 17 []).bitLength : Int) < 33 ∧
    (0 : Int) ≤ 32 ∧ (32 : Int) ≤ (unitOver .writer [0, 0, 0, 0] 17 []).bitLength := by decide

theorem witness_SetBytePositionMoves : 8 * (-1 : Int) < 0 ∧
    ((unitOver .reader [0, 0, 0, 0] 19 []).bitLength : Int) < 8 * 5 ∧
    (0 : Int) ≤ 8 * 4 ∧ 8 * (4 : Int) ≤ (unitOver .reader [0, 0, 0, 0] 19 []).bitLength := by decide

theorem witness_PropertyReadsAnswer :
    (unitOver .writer [0, 0, 0, 0] 32 []).position ≤ (unitOver .writer [0, 0, 0, 0] 32 []).bitLength := by
  decide

theorem witness_PropertiesAreFunctionsOfPosition :
    (unitOver .reader [0, 0, 0, 0] 32 []).position ≤ (unitOver .reader [0, 0, 0, 0] 32 []).bitLength := by
  decide

theorem witness_ResetEventClearsPosition :
    (unitOver .reader [0xA7, 0x6B] 13 [.reset]).host = [.reset] := rfl

theorem witness_ResetStateProperties :
    (unitOver .writer [0x00, 0xFF] 16 [.reset]).host = [.reset] ∧
    ∃ t, step (unitOver .writer [0x00, 0xFF] 16 [.reset]) = .next t := ⟨rfl, _, rfl⟩

theorem witness_StepKeepsInvariant :
    (unitOver .writer [0x00, 0xFF] 15 [.command ⟨0x70, 0, 1⟩]).Inv ∧
    ∃ t, step (unitOver .writer [0x00, 0xFF] 15 [.command ⟨0x70, 0, 1⟩]) = .next t := by
  refine ⟨⟨?_, ?_, ?_⟩, _, rfl⟩ <;> decide

/-- One witness for each writer of `pos`; none of the events lends a buffer. -/
theorem witness_PositionIsWrittenOnlyByListedEvents :
    (∀ bytes rest, (unitOver .reader [1, 2] 13 [.reset]).host ≠ .lend bytes :: rest) ∧
    (∀ r bytes rest, (unitOver .reader [1, 2] 13 [.command r]).host ≠ .lend bytes :: rest) ∧
    (∃ t, step (unitOver .reader [1, 2] 13 [.reset]) = .next t ∧ t.position ≠ 13) ∧
    (∃ t, step (unitOver .reader [1, 2] 13 [.command ⟨0x80, 16, 0⟩]) = .next t ∧ t.position ≠ 13) ∧
    (∃ t, step (unitOver .reader [1, 2] 13 [.command ⟨0x83, 0, 0⟩]) = .next t ∧ t.position ≠ 13) ∧
    (∃ t, step (unitOver .reader [1, 2] 13 [.command ⟨0x85, 2, 0⟩]) = .next t ∧ t.position ≠ 13) ∧
    (∃ t, step (unitOver .reader [1, 2] 13 [.command ⟨0x31, 3, 0⟩]) = .next t ∧ t.position ≠ 13) ∧
    ∃ t, step (unitOver .writer [1, 2] 13 [.command ⟨0x71, 3, 0⟩]) = .next t ∧ t.position ≠ 13 := by
  refine ⟨by simp [unitOver], by simp [unitOver], ⟨_, rfl, ?_⟩, ⟨_, rfl, ?_⟩, ⟨_, rfl, ?_⟩,
    ⟨_, rfl, ?_⟩, ⟨_, rfl, ?_⟩, ⟨_, rfl, ?_⟩⟩ <;> decide

/-- An access, and a format-P command that moves to `BL` itself, in the exhausted state. -/
theorem witness_ExhaustedStateOnlyRepositions :
    (∃ t, exec (.readByte 8) (unitOver .reader exampleBuffer 64 []) = .next t) ∧
    Issued (unitOver .reader [0xA7] 8 [.command ⟨0x21, 1, 0⟩]) ⟨0x21, 1, 0⟩ [] ∧
    (unitOver .reader [0xA7] 8 []).position = (unitOver .reader [0xA7] 8 []).bitLength ∧
    illegalOp 0x21 = false ∧ wrongSide .reader 0x21 = false ∧ countInRange ⟨0x21, 1, 0⟩ ∧
    Issued (unitOver .reader [0xA7] 8 [.command ⟨0x83, 8, 0⟩]) ⟨0x83, 8, 0⟩ [] ∧
    illegalOp 0x83 = false ∧
    ¬ positionOutOfRange (unitOver .reader [0xA7] 8 []) ⟨0x83, 8, 0⟩ := by
  refine ⟨⟨_, rfl⟩, ⟨rfl, rfl⟩, ?_, ?_, ?_, ?_, ⟨rfl, rfl⟩, ?_, ?_⟩ <;>
    first
      | decide
      | (unfold countInRange; decide)
      | (unfold positionOutOfRange; decide)

/-- One witness for each status other than OK. -/
theorem witness_FailureLeavesStateUnchanged :
    (∃ t, step (unitOver .writer [0xA7] 8 [.command ⟨0x60, 0, 1⟩]) = .next t ∧
      t.response = some ⟨.fail, 0⟩) ∧
    (∃ t, step (unitOver .writer [0xA7] 8 [.command ⟨0x70, 0, 1⟩]) = .next t ∧
      t.response = some ⟨.errEos, 0⟩) ∧
    (∃ t, step (unitOver .writer [0xA7] 0 [.command ⟨0x71, 9, 0⟩]) = .next t ∧
      t.response = some ⟨.errRange, 0⟩) ∧
    ∃ t, step (unitOver .writer [0xA7] 0 [.command ⟨0x31, 8, 0⟩]) = .next t ∧
      t.response = some ⟨.errIllegal, 0⟩ := by
  refine ⟨⟨_, rfl, ?_⟩, ⟨_, rfl, ?_⟩, ⟨_, rfl, ?_⟩, ⟨_, rfl, ?_⟩⟩ <;> decide

/-- Two states that agree on the block's own state, one with an answered command and one without; and
a failed command. -/
theorem witness_StatusIsFunctionOfCommandAndState :
    (unitOver .reader [0xA7] 8 [.command ⟨0x30, 0, 0⟩]).host = [.command ⟨0x30, 0, 0⟩] ∧
    ({ unitOver .reader [0xA7] 8 [.command ⟨0x30, 0, 0⟩, .reset] with
        response := some ⟨.ok, 1⟩ } : State).host = [.command ⟨0x30, 0, 0⟩, .reset] ∧
    (∃ t, step (unitOver .reader [0xA7] 8 [.command ⟨0x30, 0, 0⟩]) = .next t) ∧
    ∃ t, exec .readBit (unitOver .reader [0xA7] 8 []) = .next t ∧ t.response = some ⟨.errEos, 0⟩ :=
  ⟨rfl, rfl, ⟨_, rfl⟩, ⟨_, rfl, by decide⟩⟩

/-- One witness for each clause, at the bounds where two clauses meet. -/
theorem witness_StatusFollowsPriority :
    Issued (unitOver .reader [0xA7] 8 [.command ⟨0x31, 8, 0⟩]) ⟨0x31, 8, 0⟩ [] ∧
    illegalOp 0x09 = true ∧ wrongSide .reader 0x71 = true ∧
    illegalOp 0x31 = false ∧ wrongSide .reader 0x31 = false ∧
    illegalOp 0x83 = false ∧ wrongSide .reader 0x83 = false ∧
    positionOutOfRange (unitOver .reader [0xA7] 8 []) ⟨0x83, 9, 0⟩ ∧
    ¬ positionOutOfRange (unitOver .reader [0xA7] 8 []) ⟨0x83, 8, 0⟩ ∧
    ¬ countInRange ⟨0x31, 0, 0⟩ ∧ ¬ countInRange ⟨0x31, 9, 0⟩ ∧ countInRange ⟨0x31, 8, 0⟩ ∧
    remaining (unitOver .reader [0xA7] 1 []) < countOf ⟨0x31, 8, 0⟩ ∧
    countOf ⟨0x31, 8, 0⟩ ≤ remaining (unitOver .reader [0xA7] 0 []) := by
  refine ⟨⟨rfl, rfl⟩, ?_⟩
  unfold countInRange positionOutOfRange
  decide

/-- A count below and above the class's range, a position above it and a byte position whose product is. -/
theorem witness_RangeErrorCauses :
    (∃ t, step (unitOver .reader [0xA7] 0 [.command ⟨0x31, 0, 0⟩]) = .next t ∧
      t.response = some ⟨.errRange, 0⟩) ∧
    (∃ t, step (unitOver .reader [0xA7] 0 [.command ⟨0x31, 9, 0⟩]) = .next t ∧
      t.response = some ⟨.errRange, 0⟩) ∧
    (∃ t, step (unitOver .reader [0xA7] 0 [.command ⟨0x83, 9, 0⟩]) = .next t ∧
      t.response = some ⟨.errRange, 0⟩) ∧
    ∃ t, step (unitOver .reader [0xA7] 0 [.command ⟨0x85, 0x20000000, 0⟩]) = .next t ∧
      t.response = some ⟨.errRange, 0⟩ := by
  refine ⟨⟨_, rfl, ?_⟩, ⟨_, rfl, ?_⟩, ⟨_, rfl, ?_⟩, ⟨_, rfl, ?_⟩⟩ <;> decide

/-- `N − 1` bits left and `N` bits left, and the two answers of exhaustion. -/
theorem witness_ExhaustionBoundaryIsExact :
    Issued (unitOver .reader [0xA7] 1 [.command ⟨0x31, 8, 0⟩]) ⟨0x31, 8, 0⟩ [] ∧
    (0x31#8).getLsbD 7 = false ∧ illegalOp 0x31 = false ∧ wrongSide .reader 0x31 = false ∧
    countInRange ⟨0x31, 8, 0⟩ ∧
    remaining (unitOver .reader [0xA7] 1 []) = countOf ⟨0x31, 8, 0⟩ - 1 ∧
    remaining (unitOver .reader [0xA7] 0 []) = countOf ⟨0x31, 8, 0⟩ ∧
    (∃ t, step (unitOver .reader [0xA7] 1 [.command ⟨0x31, 8, 0⟩]) = .next t ∧
      t.response = some ⟨.errEos, 0⟩) ∧
    ∃ t, step (unitOver .reader [0xA7] 1 [.command ⟨0x21, 8, 0⟩]) = .next t ∧
      t.response = some ⟨.fail, 0⟩ := by
  refine ⟨⟨rfl, rfl⟩, ?_, ?_, ?_, ?_, ?_, ?_, ⟨_, rfl, ?_⟩, ⟨_, rfl, ?_⟩⟩ <;>
    first
      | decide
      | (unfold countInRange; decide)

/-- One witness for each status: the failing ones of the other statements, and OK. -/
theorem witness_StatusCodesAndTheirRaisers :
    (∃ t, step (unitOver .reader [0xA7] 8 [.command ⟨0x20, 0, 0⟩]) = .next t ∧
      t.response = some ⟨.fail, 0⟩) ∧
    (∃ t, step (unitOver .reader [0xA7] 8 [.command ⟨0x30, 0, 0⟩]) = .next t ∧
      t.response = some ⟨.errEos, 0⟩) ∧
    (∃ t, step (unitOver .reader [0xA7] 0 [.command ⟨0x80, 9, 0⟩]) = .next t ∧
      t.response = some ⟨.errRange, 0⟩) ∧
    (∃ t, step (unitOver .reader [0xA7] 0 [.command ⟨0x88, 0, 0⟩]) = .next t ∧
      t.response = some ⟨.errIllegal, 0⟩) ∧
    ∃ t, step (unitOver .reader [0xA7] 7 [.command ⟨0x30, 0, 0⟩]) = .next t ∧
      t.response = some ⟨.ok, 1⟩ := by
  refine ⟨⟨_, rfl, ?_⟩, ⟨_, rfl, ?_⟩, ⟨_, rfl, ?_⟩, ⟨_, rfl, ?_⟩, ⟨_, rfl, ?_⟩⟩ <;> decide

theorem witness_ResponsesWithoutValueCarryZero :
    (∃ t, step (unitOver .reader [0xA7] 0 [.command ⟨0x11, 8, 0⟩]) = .next t ∧
      t.response = some ⟨.ok, 0xA7⟩) ∧
    ∃ t, step (unitOver .reader [0xA7] 3 [.command ⟨0x87, 0, 0⟩]) = .next t ∧
      t.response = some ⟨.ok, 5⟩ := by
  refine ⟨⟨_, rfl, ?_⟩, ⟨_, rfl, ?_⟩⟩ <;> decide

theorem witness_EveryCommandCompletes :
    Issued (unitOver .writer [] 0 [.command ⟨0xFF, 0, 0⟩]) ⟨0xFF, 0, 0⟩ [] := ⟨rfl, rfl⟩

theorem witness_FieldReadEqualsClosedForm : 1 ≤ 1 ∧ 1 ≤ classMax .bit ∧ 8 ≤ classMax .byte ∧
    16 ≤ classMax .short ∧ 32 ≤ classMax .int ∧ 64 ≤ classMax .long := by decide

theorem witness_FieldWriteEqualsClosedForm : Memory.wf [(1, 7), (268435454, 9)] = true ∧ 1 ≤ 64 ∧
    64 ≤ classMax .long ∧ 1 ≤ classMax .bit := by decide

/-- A value that fits `N` bits, at the largest, and one that does not. -/
theorem witness_WriteThenReadRoundTrips : Memory.wf [(1, 7)] = true ∧ 1 ≤ 8 ∧ 8 ≤ classMax .byte ∧
    8 ≤ classMax .long ∧ (0xFF#64).toNat < 2 ^ 8 ∧ ¬ (0x100#64).toNat < 2 ^ 8 := by decide

/-- Two buffers that agree on the field's bytes, both ends included, and differ outside them. -/
theorem witness_AccessTouchesOnlyFieldBytes : 1 ≤ 16 ∧ 16 ≤ classMax .short ∧
    (∀ i, 15 / 8 ≤ i → i ≤ (15 + 16 - 1) / 8 →
      Memory.get [(0, 5), (1, 7), (3, 9)] i = Memory.get [(1, 7), (3, 9), (4, 6)] i) ∧
    Memory.wf [(0, 5), (1, 7), (3, 9)] = true ∧ Memory.wf [(1, 7), (3, 9), (4, 6)] = true := by
  refine ⟨by decide, by decide, fun i h h' => ?_, by decide, by decide⟩
  have : i = 1 ∨ i = 2 ∨ i = 3 := by omega
  rcases this with rfl | rfl | rfl <;> decide

/-- Whole bytes in classes wider than the field, and in each class at its full width. -/
theorem witness_AlignedFieldsAreBigEndian : 1 ≤ 1 ∧ 8 * 1 ≤ classMax .byte ∧
    8 * 1 ≤ classMax .long ∧ 8 * 2 ≤ classMax .short ∧ 8 * 3 ≤ classMax .int ∧
    8 * 4 ≤ classMax .int ∧ 8 * 7 ≤ classMax .long ∧ 8 * 8 ≤ classMax .long ∧
    Memory.wf [(1, 7), (268435454, 9)] = true := by decide

theorem witness_RepeatedPokeLeavesSameBuffer : Memory.wf [(1, 7)] = true ∧ 1 ≤ 33 ∧
    33 ≤ classMax .long := by decide

theorem witness_ReadSideKeepsBufferAndPeekKeepsPosition : readSideOp 0x11 = true ∧
    (0x11#8).getLsbD 5 = false ∧ readSideOp 0x31 = true ∧
    (∃ t, step (unitOver .reader [0xA7] 0 [.command ⟨0x11, 8, 0⟩]) = .next t) ∧
    ∃ t, step (unitOver .reader [0xA7] 1 [.command ⟨0x11, 8, 0⟩]) = .next t ∧
      t.response = some ⟨.errEos, 0⟩ :=
  ⟨by decide, by decide, by decide, ⟨_, rfl⟩, ⟨_, rfl, by decide⟩⟩

/-- The read that moves `pos` to `BL`, and the one that finds one bit too few. -/
theorem witness_ReadAdvancesExactlyByWidth : readSideOp 0x31 = true ∧
    (0x31#8).getLsbD 5 = true ∧
    (∃ t, step (unitOver .reader [0xA7] 0 [.command ⟨0x31, 8, 0⟩]) = .next t ∧
      t.response = some ⟨.ok, 0xA7⟩) ∧
    ∃ t, step (unitOver .reader [0xA7] 1 [.command ⟨0x31, 8, 0⟩]) = .next t ∧
      t.response = some ⟨.errEos, 0⟩ :=
  ⟨by decide, by decide, ⟨_, rfl, by decide⟩, ⟨_, rfl, by decide⟩⟩

theorem witness_WriteChangesExactlyTheField : writeSideOp 0x74 = true ∧
    Memory.wf (unitOver .writer exampleBuffer 7 []).buf = true ∧
    ∃ t, step (unitOver .writer exampleBuffer 7 [.command ⟨0x74, 64, 0x0123456789ABCDEF⟩]) = .next t ∧
      t.response = some ⟨.ok, 0⟩ :=
  ⟨by decide, by decide, ⟨_, rfl, by decide⟩⟩

/-- A poke, a write that moves `pos` to `BL`, and a write that finds one bit too few. -/
theorem witness_WriteAdvancesExactlyByWidth : writeSideOp 0x51 = true ∧ writeSideOp 0x71 = true ∧
    (0x51#8).getLsbD 5 = false ∧ (0x71#8).getLsbD 5 = true ∧
    (∃ t, step (unitOver .writer [0xA7] 0 [.command ⟨0x51, 8, 1⟩]) = .next t ∧
      t.response = some ⟨.ok, 0⟩) ∧
    (∃ t, step (unitOver .writer [0xA7] 0 [.command ⟨0x71, 8, 1⟩]) = .next t ∧
      t.response = some ⟨.ok, 0⟩) ∧
    ∃ t, step (unitOver .writer [0xA7] 1 [.command ⟨0x71, 8, 1⟩]) = .next t ∧
      t.response = some ⟨.errEos, 0⟩ :=
  ⟨by decide, by decide, by decide, by decide, ⟨_, rfl, by decide⟩, ⟨_, rfl, by decide⟩,
    ⟨_, rfl, by decide⟩⟩

/-- `A7 6B` read as 3 bits and then 13, up to the buffer's end. -/
theorem witness_ConsecutiveReadsLeaveNoGap : readSideOp 0x31 = true ∧ readSideOp 0x32 = true ∧
    (0x31#8).getLsbD 5 = true ∧ (0x32#8).getLsbD 5 = true ∧
    ∃ t u, step (unitOver .reader [0xA7, 0x6B] 0 [.command ⟨0x31, 3, 0⟩, .command ⟨0x32, 13, 0⟩]) =
        .next t ∧ t.response = some ⟨.ok, 5⟩ ∧
      step t = .next u ∧ u.response = some ⟨.ok, 0x76B⟩ :=
  ⟨by decide, by decide, by decide, by decide, _, _, rfl, by decide, rfl, by decide⟩

/-- Two fields packed into `00 00`, up to the buffer's end. -/
theorem witness_ConsecutiveWritesLeaveNoGap : writeSideOp 0x71 = true ∧ writeSideOp 0x72 = true ∧
    (0x71#8).getLsbD 5 = true ∧ (0x72#8).getLsbD 5 = true ∧
    Memory.wf (unitOver .writer [0, 0] 0 []).buf = true ∧
    ∃ t u, step (unitOver .writer [0, 0] 0 [.command ⟨0x71, 3, 5⟩, .command ⟨0x72, 13, 0x76B⟩]) =
        .next t ∧ t.response = some ⟨.ok, 0⟩ ∧
      step t = .next u ∧ u.response = some ⟨.ok, 0⟩ :=
  ⟨by decide, by decide, by decide, by decide, by decide, _, _, rfl, by decide, rfl, by decide⟩

/-- Program 5 of 95_test_vectors.md: 64 bits at offset 7, written and read back. -/
theorem witness_WriterThenReaderRoundTrips : writeSideOp 0x74 = true ∧ readSideOp 0x34 = true ∧
    illegalOp 0x34 = false ∧ countInRange ⟨0x34, 64, 0⟩ ∧
    countOf ⟨0x34, 64, 0⟩ = countOf ⟨0x74, 64, 0x0123456789ABCDEF⟩ ∧
    Memory.wf (unitOver .writer [0, 0, 0, 0, 0, 0, 0, 0, 0] 7 []).buf = true ∧
    ∃ t u, step (unitOver .writer [0, 0, 0, 0, 0, 0, 0, 0, 0] 7
          [.command ⟨0x74, 64, 0x0123456789ABCDEF⟩]) = .next t ∧ t.response = some ⟨.ok, 0⟩ ∧
      u.kind = .reader ∧ u.len = t.len ∧ u.buf = t.buf ∧ u.pos = 7 ∧ Issued u ⟨0x34, 64, 0⟩ [] := by
  refine ⟨by decide, by decide, by decide, ?_, by decide, by decide, _,
    unitOver .reader [0x00, 0x02, 0x46, 0x8A, 0xCF, 0x13, 0x57, 0x9B, 0xDE] 7
      [.command ⟨0x34, 64, 0⟩], rfl, by decide, rfl, rfl, ?_, rfl, rfl, rfl⟩
  · unfold countInRange
    decide
  · decide

theorem witness_OnlyWriterAccessesWriteBuffer :
    (∀ bytes, HostEvent.command ⟨0x70, 0, 1⟩ ≠ .lend bytes) ∧
    ∃ t, step (unitOver .writer [0, 0] 0 [.command ⟨0x70, 0, 1⟩]) = .next t ∧ t.buf ≠ [] :=
  ⟨by simp, _, rfl, by decide⟩

theorem witness_BitLengthNeverChanges :
    ∃ t, step (unitOver .writer [0, 0] 0 [.command ⟨0x80, 16, 0⟩]) = .next t := ⟨_, rfl⟩

/-- A buffer of `L` bytes, and one a byte too long. -/
theorem witness_LendingBindsTheBuffer :
    (unitOver .reader [1, 2] 9 [.lend [3, 4]]).host = [.lend [3, 4]] ∧
    ([3, 4] : List Byte).length = (unitOver .reader [1, 2] 9 []).len.val ∧
    ([3, 4, 5] : List Byte).length ≠ (unitOver .reader [1, 2] 9 []).len.val := by decide

theorem witness_CommandAfterWithdrawalIsRefused :
    (unitOver .reader [1] 0 [.withdraw]).host = [.withdraw] ∧
    (after (unitOver .reader [1] 0 [.withdraw, .command ⟨0x81, 0, 0⟩])).host =
      [.command ⟨0x81, 0, 0⟩] ∧
    (after (unitOver .reader [1] 0 [.withdraw, .command ⟨0x81, 0, 0⟩])).lent = false := by decide

theorem witness_OutsideInterferenceIsRefused :
    (unitOver .reader [1] 0 [.strayCommand ⟨0x81, 0, 0⟩]).host = [.strayCommand ⟨0x81, 0, 0⟩] ∧
    (unitOver .reader [1] 0 [.strayAccess]).host = [.strayAccess] ∧
    (unitOver .reader [1] 0 [.strayAccess]).lent = true ∧
    (after (unitOver .reader [1] 0 [.withdraw, .strayAccess])).host = [.strayAccess] ∧
    (after (unitOver .reader [1] 0 [.withdraw, .strayAccess])).lent = false := by decide

theorem witness_IdleUnitKeepsItsState : State.reset.host = [] := rfl

theorem witness_OmittedCountsMeanFullWidth : WidthClass.byte ≠ .bit ∧ WidthClass.long ≠ .bit := by
  decide

/-- Operands at the bounds of their fields, a count and no count, and lines that do not fit. -/
theorem witness_AssembledLinesAreCommands :
    assemble (.readSide true true .byte (some (-2147483648))) = some (.readByte (-2147483648)) ∧
    assemble (.readSide false true .bit none) = some .peekBit ∧
    assemble (.writeSide true true .long (2 ^ 64 - 1) none) =
      some (.writeLong 0xFFFFFFFFFFFFFFFF 64) ∧
    assemble (.writeSide false false .byte 13 (some 4)) = some (.tryPokeByte 13 4) ∧
    assemble (.new none) = some (.new 0) ∧
    assemble (.setBytePosition 2147483647) = some (.setBytePosition 2147483647) ∧
    assemble (.writeSide true true .long (2 ^ 64) none) = none ∧
    assemble (.readSide true true .bit (some 1)) = none ∧
    assemble (.readSide true true .byte (some (2 ^ 31))) = none := by decide

/-! ## Assembler text (R104) -/

theorem test_assembleText : assembleText "ReadByte 5" = some ⟨0x31, 5, 0⟩ ∧
    assembleText "WriteInt 0xDEADBEEF, 32" = some ⟨0x73, 32, 0xDEADBEEF⟩ ∧
    assembleText "SetBitPosition -1" = some ⟨0x83, 0xFFFFFFFF, 0⟩ ∧
    assembleText "ReadBit 1" = none ∧ assembleText "SetBitPosition" = none := by decide

end Sys2Proof.Tests
end

section
/-! SUPPORT. What one step can do, as one inversion: `CommandEffect` for a command and `StepEffect` for any event
of the host. Both are read off the shared operations' own lemmas, and the invariants follow from them. -/

namespace Sys2Proof.Machine

open Sys2Proof.Claims

/-- The next states of a unit in state `s` that runs the request `r`: a failure (R275), a property's answer (R39), a
checked move of `pos` (R240, R243, R245), a Reader's access (R160) or a Writer's access (R200). -/
inductive CommandEffect (r : Request) (s : State) : State → Prop where
  | failed (status : Status) (hstatus : status ≠ .ok) : CommandEffect r s (raise status s)
  | answered (value : Nat) : CommandEffect r s (respond .ok (BitVec.ofNat 64 value) s)
  | moved (p : Nat) (hp : p ≤ s.bitLength) : CommandEffect r s (respond .ok 0 (s.setPosition p))
  | read (w : WidthClass) (v : Motion) (n : Nat) (hkind : s.kind = .reader)
      (hfits : s.position + n ≤ s.bitLength) :
      CommandEffect r s (respond .ok (fieldRead w s.buf s.position n) (advanceBy v n s))
  | wrote (w : WidthClass) (v : Motion) (n : Nat) (value : Data) (hside : writeSideOp r.op = true)
      (hlegal : illegalOp r.op = false) (hkind : s.kind = .writer) (hn : 1 ≤ n)
      (hfits : s.position + n ≤ s.bitLength) :
      CommandEffect r s
        (respond .ok 0 (advanceBy v n (s.setBuffer (fieldWrite w s.buf s.position n value))))

/-- The next states of a unit in state `s`, by the event at the head of the host's list (R287, R300 to R306). -/
inductive StepEffect (s : State) : State → Prop where
  | idle (hhost : s.host = []) : StepEffect s s
  | command (r : Request) (es : List HostEvent) (hhost : s.host = .command r :: es) {t : State}
      (heffect : CommandEffect r (dropEvent s) t) : StepEffect s t
  | reset (es : List HostEvent) (hhost : s.host = .reset :: es) :
      StepEffect s (resetUnit (dropEvent s))
  | lend (bytes : List Byte) (es : List HostEvent) (hhost : s.host = .lend bytes :: es)
      (hlength : bytes.length = s.len.val) : StepEffect s (bindBuffer bytes (dropEvent s))
  | withdraw (es : List HostEvent) (hhost : s.host = .withdraw :: es) :
      StepEffect s (releaseBuffer (dropEvent s))
  | strayAccess (es : List HostEvent) (hhost : s.host = .strayAccess :: es)
      (hlent : s.lent = false) : StepEffect s (dropEvent s)

/-! ## The inversion -/

theorem exhausted_ne_ok (t : Variant) : exhausted t ≠ .ok := by cases t <;> decide

theorem readAccess_effect (r : Request) {w : WidthClass} {v : Motion} {t : Variant} {a : Int} {s s' : State}
    (h : readAccess w v t a s = .next s') : CommandEffect r s s' := by
  rcases readAccess_cases w v t a s with
    ⟨-, heq⟩ | ⟨-, -, heq⟩ | ⟨n, -, -, -, heq⟩ | ⟨n, hkind, -, hfits, heq⟩ <;> cases heq.symm.trans h
  · exact .failed _ (by decide)
  · exact .failed _ (by decide)
  · exact .failed _ (exhausted_ne_ok t)
  · exact .read w v n hkind hfits

theorem writeAccess_effect {r : Request} (hside : writeSideOp r.op = true) (hlegal : illegalOp r.op = false)
    {w : WidthClass} {v : Motion} {t : Variant} {value : Data} {a : Int} {s s' : State}
    (h : writeAccess w v t value a s = .next s') : CommandEffect r s s' := by
  rcases writeAccess_cases w v t value a s with
    ⟨-, heq⟩ | ⟨-, -, heq⟩ | ⟨n, -, -, -, heq⟩ | ⟨n, hkind, hcount, hfits, heq⟩ <;>
    cases heq.symm.trans h
  · exact .failed _ (by decide)
  · exact .failed _ (by decide)
  · exact .failed _ (exhausted_ne_ok t)
  · exact .wrote w v n _ hside hlegal hkind (bitCount_bounds hcount).1 hfits

theorem moveTo_effect (r : Request) {p : Int} {s s' : State} (h : moveTo p s = .next s') :
    CommandEffect r s s' := by
  rcases moveTo_cases p s with ⟨-, heq⟩ | ⟨-, hp, heq⟩ <;> cases heq.symm.trans h
  · exact .failed _ (by decide)
  · exact .moved p.toNat (by omega)

theorem answer_effect (r : Request) {value : Nat} {s s' : State} (h : answer value s = .next s') :
    CommandEffect r s s' := by
  cases (answer_eq value s).symm.trans h
  exact .answered value

/-- R96: a format-P command is a checked move of `pos` or the answer of a property. -/
theorem exec_propertySide_cases (sel : BitVec 3) (a : Int) (s : State) :
    (∃ p, exec (propertySide sel a) s = moveTo p s) ∨
      ∃ value, exec (propertySide sel a) s = answer value s := by
  simp only [propertySide]
  split
  · exact .inl ⟨a, rfl⟩
  · exact .inr ⟨s.bitLength, rfl⟩
  · exact .inr ⟨s.position, rfl⟩
  · exact .inl ⟨a, rfl⟩
  · exact .inr ⟨s.bytePosition, rfl⟩
  · exact .inl ⟨8 * a, rfl⟩
  · exact .inr ⟨s.bitOffset, rfl⟩
  · exact .inr ⟨s.remainingBits, rfl⟩

/-- R93, R100: a format-A OP value with `OP[3] = 0` and one of the five widths is legal. -/
theorem illegalOp_of_formatA {op : Byte} {w : WidthClass} (h7 : op.getLsbD 7 = false)
    (h3 : op.getLsbD 3 = false) (hw : op.extractLsb 2 0 = fieldOfWidth w) : illegalOp op = false := by
  simp only [illegalOp, h7, h3, hw]
  cases w <;> rfl

theorem writeSideOp_of_bits {op : Byte} (h7 : op.getLsbD 7 = false) (h6 : op.getLsbD 6 = true) :
    writeSideOp op = true := by
  simp only [writeSideOp, h7, h6, Bool.not_false, Bool.and_self]

/-- A command that decodes from `r` has one of the effects of `r`, whatever its format and side. -/
theorem exec_effect {r : Request} {i : Instr} {s t : State} (hd : decode r = .ok i)
    (h : exec i s = .next t) : CommandEffect r s t := by
  rcases decode_cases r with
    ⟨-, -, heq⟩ | ⟨⟨e, heq⟩, -⟩ | ⟨w, -, -, -, -, heq⟩ | ⟨w, h7, h3, h6, hw, heq⟩ <;>
    cases heq.symm.trans hd
  · rcases exec_propertySide_cases (r.op.extractLsb 2 0) (signedArg r.arg) s with
      ⟨p, hexec⟩ | ⟨value, hexec⟩
    · exact moveTo_effect r (hexec.symm.trans h)
    · exact answer_effect r (hexec.symm.trans h)
  · rw [exec_readSide] at h
    exact readAccess_effect r h
  · rw [exec_writeSide] at h
    exact writeAccess_effect (writeSideOp_of_bits h7 h6) (illegalOp_of_formatA h7 h3 hw) h

/-- R277, R303: a command that is not refused is illegal or is run, on the state without its event. -/
theorem step_command_effect {s t : State} {r : Request} {es : List HostEvent}
    (hhost : s.host = .command r :: es) (h : step s = .next t) : CommandEffect r (dropEvent s) t := by
  rw [step_command hhost] at h
  split at h
  · cases hd : decode r with
    | ok i =>
      rw [hd] at h
      exact exec_effect hd h
    | error e =>
      rw [hd] at h
      cases h
      exact .failed _ (by decide)
  · cases h

/-- A step that gives a next state has the effect of the host's next event. -/
theorem step_effect {s t : State} (h : step s = .next t) : StepEffect s t := by
  cases hhost : s.host with
  | nil =>
    cases (step_idle hhost).symm.trans h
    exact .idle hhost
  | cons e es =>
    cases e with
    | command r => exact .command r es hhost (step_command_effect hhost h)
    | reset =>
      cases (step_reset hhost).symm.trans h
      exact .reset es hhost
    | lend bytes =>
      rw [step_lend hhost] at h
      split at h
      · next hlength =>
        cases h
        exact .lend bytes es hhost hlength
      · cases h
    | withdraw =>
      cases (step_withdraw hhost).symm.trans h
      exact .withdraw es hhost
    | strayAccess =>
      rw [step_strayAccess hhost] at h
      split at h
      · cases h
      · next hlent =>
        cases h
        exact .strayAccess es hhost (by simpa using hlent)
    | strayCommand r => cases (step_strayCommand hhost).symm.trans h

/-! ## What every step keeps -/

/-- R9, R10: a command writes neither parameter of the unit. -/
theorem CommandEffect.keeps_parameters {r : Request} {s t : State} (h : CommandEffect r s t) :
    t.len = s.len ∧ t.kind = s.kind := by
  cases h <;> simp

/-- R9, R10: no event of the host writes a parameter of the unit. -/
theorem StepEffect.keeps_parameters {s t : State} (h : StepEffect s t) :
    t.len = s.len ∧ t.kind = s.kind := by
  cases h with
  | command r es hhost heffect => exact heffect.keeps_parameters
  | _ => simp

/-- R32: `BL` is a function of `L` alone. -/
theorem bitLength_eq_of_len_eq {s t : State} (h : t.len = s.len) : t.bitLength = s.bitLength := by
  simp only [State.bitLength, h]

/-- R160, R200: an access whose field fits moves `pos` to at most `BL`. -/
theorem advanceBy_position_le {n : Nat} {s : State} (v : Motion) (h : s.position + n ≤ s.bitLength) :
    (advanceBy v n s).position ≤ s.bitLength := by
  cases v with
  | stay => exact (Nat.le_add_right _ _).trans h
  | advance => exact (setPosition_position _ s h).trans_le h

/-- R31, R60: a command keeps the invariant; a write stays inside the buffer because its field fits. -/
theorem CommandEffect.keeps_inv {r : Request} {s t : State} (h : CommandEffect r s t) (hs : s.Inv) :
    t.Inv := by
  obtain ⟨hwf, hwithin, hpos⟩ := hs
  cases h with
  | failed status => exact ⟨hwf, hwithin, hpos⟩
  | answered value => exact ⟨hwf, hwithin, hpos⟩
  | moved p hp => exact ⟨hwf, hwithin, (setPosition_position p s hp).trans_le hp⟩
  | read w v n hkind hfits =>
    exact ⟨by simpa using hwf, by simpa using hwithin, by simpa using advanceBy_position_le v hfits⟩
  | wrote w v n value hside hlegal hkind hn hfits =>
    obtain ⟨keepsWf, keepsWithin⟩ := fieldWrite_keeps w s.len.val s.buf s.position n value hn hfits
    have hpos' := advanceBy_position_le v
      (s := s.setBuffer (fieldWrite w s.buf s.position n value)) hfits
    exact ⟨by simpa using keepsWf hwf, by simpa using keepsWithin hwithin, by simpa using hpos'⟩

/-- R31, R60, R249: every event of the host keeps the invariant. -/
theorem StepEffect.keeps_inv {s t : State} (h : StepEffect s t) (hs : s.Inv) : t.Inv := by
  cases h with
  | idle => exact hs
  | command r es hhost heffect => exact heffect.keeps_inv hs
  | reset =>
    obtain ⟨hwf, hwithin, -⟩ := hs
    exact ⟨hwf, hwithin, Nat.zero_le _⟩
  | lend bytes es hhost hlength =>
    exact ⟨Memory.ofBytes_wf bytes, hlength ▸ Memory.ofBytes_within bytes, Nat.zero_le _⟩
  | withdraw => exact hs
  | strayAccess => exact hs

/-- R41, R66: a command that changes the buffer is a write-side access that a Writer answers OK. -/
theorem CommandEffect.wrote_of_buf_ne {r : Request} {s t : State} (h : CommandEffect r s t)
    (hbuf : t.buf ≠ s.buf) :
    s.kind = .writer ∧ writeSideOp r.op = true ∧ illegalOp r.op = false ∧
      t.response = some ⟨.ok, 0⟩ := by
  cases h with
  | wrote w v n value hside hlegal hkind => exact ⟨hkind, hside, hlegal, rfl⟩
  | failed => exact absurd rfl hbuf
  | answered => exact absurd rfl hbuf
  | moved => exact absurd rfl hbuf
  | read w v n => exact absurd (advanceBy_buf v n s) hbuf

/-- R41, R66: apart from a lent buffer, only a command changes the buffer. -/
theorem StepEffect.command_of_buf_ne {s t : State} (h : StepEffect s t)
    (hlend : ∀ bytes es, s.host ≠ .lend bytes :: es) (hbuf : t.buf ≠ s.buf) :
    ∃ r es, s.host = .command r :: es ∧ CommandEffect r (dropEvent s) t := by
  cases h with
  | command r es hhost heffect => exact ⟨r, es, hhost, heffect⟩
  | lend bytes es hhost => exact absurd hhost (hlend bytes es)
  | idle => exact absurd rfl hbuf
  | reset => exact absurd rfl hbuf
  | withdraw => exact absurd rfl hbuf
  | strayAccess => exact absurd rfl hbuf

/-! ## The quantities that are functions of `pos` -/

/-- R33: `BytePosition ≤ L` wherever `pos ≤ BL`. -/
theorem bytePosition_le_len {s : State} (h : s.position ≤ s.bitLength) : s.bytePosition ≤ s.len.val := by
  simp only [State.bitLength] at h
  simp only [State.bytePosition]
  omega

/-- R15, R33: wherever `pos ≤ BL`, the model's natural subtraction is the mathematical one. -/
theorem remainingBits_eq_remaining {s : State} (h : s.position ≤ s.bitLength) :
    (s.remainingBits : Int) = remaining s :=
  Int.ofNat_sub h

/-! ## The obligations -/

/-- Settles O25: each effect of a step keeps the three parts of the invariant. -/
theorem stepKeepsInvariant : Obligations.StepKeepsInvariant :=
  fun _ _ hs h => (step_effect h).keeps_inv hs

/-- Settles O26: the buffer of `State.reset` lists no byte, and its `pos` is 0. -/
theorem resetMeetsInvariant : Obligations.ResetMeetsInvariant :=
  ⟨rfl, rfl, Nat.zero_le _⟩

/-- Settles O50: of all effects of a step, only a write-side access and a lent buffer change the buffer. -/
theorem onlyWriterAccessesWriteBuffer : Obligations.OnlyWriterAccessesWriteBuffer := by
  intro s t e rest hhost hlend h hbuf
  have hnolend : ∀ bytes es, s.host ≠ .lend bytes :: es := by
    intro bytes es heq
    exact hlend bytes (List.cons.inj (hhost.symm.trans heq)).1
  obtain ⟨r, es, hcommand, heffect⟩ := (step_effect h).command_of_buf_ne hnolend hbuf
  obtain ⟨hkind, hside, hlegal, hresponse⟩ := heffect.wrote_of_buf_ne hbuf
  exact ⟨r, 0, (List.cons.inj (hhost.symm.trans hcommand)).1, hkind, hside, hlegal, hresponse⟩

/-- Settles O51: no effect of a step writes `L` or the kind, and `BL` is a function of `L`. -/
theorem bitLengthNeverChanges : Obligations.BitLengthNeverChanges := by
  refine ⟨fun _ => rfl, fun s t h => ?_, fun _ => rfl⟩
  obtain ⟨hlen, hkind⟩ := (step_effect h).keeps_parameters
  exact ⟨hlen, hkind, bitLength_eq_of_len_eq hlen⟩

/-- Settles O21: `pos ≤ BL = 8·L` bounds the quotient and makes the subtraction exact. -/
theorem propertiesAreFunctionsOfPosition : Obligations.PropertiesAreFunctionsOfPosition := by
  refine fun s => ⟨rfl, rfl, ?_, fun h => ⟨bytePosition_le_len h, remainingBits_eq_remaining h, ?_⟩⟩
  · exact Nat.le_of_lt_succ (Nat.mod_lt s.position (by decide))
  · exact Nat.sub_le s.bitLength s.position

end Sys2Proof.Machine
end

section
/-! SUPPORT. The field primitive bit by bit: the bits that every composed read returns (`IsField`) and that every
composed write leaves (`FieldWritten`, R140), for every position and count. The facts about whole buffers and about
byte-aligned fields follow from these two. -/

namespace Sys2Proof.Machine

open Sys2Proof.Claims

/-! ## Bytes as bits -/

/-- R62, from a byte to its bits: bit `t` of byte `i` is buffer bit `8·i + 7 − t`. -/
theorem Memory.getLsbD_get (m : Memory) (i : Nat) {t : Nat} (ht : t < 8) :
    (Memory.get m i).getLsbD t = Memory.bit m (8 * i + (7 - t)) := by
  have hindex : (8 * i + (7 - t)) / 8 = i := by omega
  have hbit : 7 - (8 * i + (7 - t)) % 8 = t := by omega
  rw [Memory.bit, hindex, hbit]

/-- R60: two canonical buffers with the same bits are the same list. -/
theorem Memory.ext_bit {m m' : Memory} (h : Memory.wf m = true) (h' : Memory.wf m' = true)
    (hbit : ∀ q, Memory.bit m q = Memory.bit m' q) : m = m' := by
  refine Memory.ext_wf h h' fun i => BitVec.eq_of_getLsbD_eq fun t ht => ?_
  rw [Memory.getLsbD_get m i ht, Memory.getLsbD_get m' i ht, hbit]

/-- R62, R133: a byte write changes the eight bits of that byte. -/
theorem Memory.bit_set {m : Memory} (i : Nat) (b : Byte) (q : Nat) (hm : Memory.wf m = true) :
    Memory.bit (Memory.set m i b) q =
      if q / 8 = i then b.getLsbD (7 - q % 8) else Memory.bit m q := by
  simp only [Memory.bit, Memory.get_set i b _ hm]
  split <;> rfl

/-- R130: `mask(n)` has its `n` low bits set. -/
theorem getLsbD_byteMask (n j : Nat) : (byteMask n).getLsbD j = (decide (j < 8) && decide (j < n)) := by
  rw [byteMask, BitVec.getLsbD_ofNat, Nat.testBit_two_pow_sub_one]

/-! ## Reads -/

/-- R139, bit by bit: `x` is the field `[p, p+n)` of `m`, first bit most significant, zeros above it. -/
def IsField {w : Nat} (m : Memory) (p n : Nat) (x : BitVec w) : Prop :=
  ∀ j, x.getLsbD j = (decide (j < n) && Memory.bit m (p + (n - 1 - j)))

theorem IsField.bit_eq {w : Nat} {m : Memory} {p n : Nat} {x : BitVec w} (h : IsField m p n x) {k : Nat}
    (hk : k < n) : Memory.bit m (p + k) = x.getLsbD (n - 1 - k) := by
  have hlow : n - 1 - k < n := by omega
  have hback : n - 1 - (n - 1 - k) = k := by omega
  rw [h, hback, decide_eq_true hlow, Bool.true_and]

theorem IsField.toNat_lt {w : Nat} {m : Memory} {p n : Nat} {x : BitVec w} (h : IsField m p n x) :
    x.toNat < 2 ^ n := by
  refine Nat.lt_pow_two_of_testBit _ fun j hj => ?_
  rw [BitVec.testBit_toNat, h, decide_eq_false (by omega), Bool.false_and]

/-- R135 to R137, the short case: a field that fits is extended by zeros. -/
theorem IsField.setWidth {w w' : Nat} {m : Memory} {p n : Nat} {x : BitVec w} (h : IsField m p n x)
    (hn : n ≤ w') : IsField m p n (x.setWidth w') := by
  intro j
  rw [BitVec.getLsbD_setWidth, h]
  by_cases hj : j < n
  · simp [hj, show j < w' by omega]
  · simp [hj]

/-- R135 to R137, the long case: the high chunk `n − c` bits long and the low chunk of `c` bits are one field. -/
theorem IsField.append {c w : Nat} {m : Memory} {p n : Nat} {hi lo : BitVec c} (hc : c ≤ n) (hn : n ≤ w)
    (hhi : IsField m p (n - c) hi) (hlo : IsField m (p + n - c) c lo) :
    IsField m p n ((hi.setWidth w <<< c) ||| lo.setWidth w) := by
  intro j
  simp only [BitVec.getLsbD_or, BitVec.getLsbD_shiftLeft, BitVec.getLsbD_setWidth]
  rw [hhi, hlo]
  by_cases hj : j < c
  · have hindex : p + n - c + (c - 1 - j) = p + (n - 1 - j) := by omega
    simp [hj, hindex, show j < n by omega, show j < w by omega]
  · have hindex : n - c - 1 - (j - c) = n - 1 - j := by omega
    have hcount : j - c < n - c ↔ j < n := by omega
    by_cases hjn : j < n
    · simp [hj, hindex, hjn, show j < w by omega, show j - c < w by omega, hcount]
    · simp [hj, hjn, hcount]

/-- R131, R132: `ByteRead`, inside one byte and across two. -/
theorem byteRead_isField (m : Memory) (p : Nat) {n : Nat} (hn : n ≤ 8) :
    IsField m p n (byteRead m p n) := by
  intro j
  simp only [byteRead]
  split
  · next hone =>
    rw [BitVec.getLsbD_and, BitVec.getLsbD_ushiftRight, getLsbD_byteMask]
    by_cases hj : j < n
    · rw [Memory.getLsbD_get m _ (by omega),
        show 8 * (p / 8) + (7 - (8 - (n + p % 8) + j)) = p + (n - 1 - j) by omega]
      simp [hj, show j < 8 by omega]
    · simp [hj]
  · next htwo =>
    simp only [BitVec.getLsbD_or, BitVec.getLsbD_shiftLeft, BitVec.getLsbD_and,
      BitVec.getLsbD_ushiftRight, getLsbD_byteMask]
    by_cases hlow : j < n + p % 8 - 8
    · rw [Memory.getLsbD_get m (p / 8 + 1) (by omega),
        show 8 * (p / 8 + 1) + (7 - (16 - (n + p % 8) + j)) = p + (n - 1 - j) by omega]
      simp [hlow, show j < n by omega]
    · have hzero : (Memory.get m (p / 8 + 1)).getLsbD (16 - (n + p % 8) + j) = false :=
        BitVec.getLsbD_of_ge _ _ (by omega)
      rw [hzero, Bool.or_false]
      by_cases hj : j < n
      · rw [Memory.getLsbD_get m (p / 8) (by omega),
          show 8 * (p / 8) + (7 - (j - (n + p % 8 - 8))) = p + (n - 1 - j) by omega]
        simp [hlow, hj, show j < 8 by omega, show j - (n + p % 8 - 8) < 8 - p % 8 by omega,
          show j - (n + p % 8 - 8) < 8 by omega]
      · simp [hj, show ¬ j - (n + p % 8 - 8) < 8 - p % 8 by omega]

theorem shortRead_isField (m : Memory) (p : Nat) {n : Nat} (hn : n ≤ 16) :
    IsField m p n (shortRead m p n) := by
  simp only [shortRead]
  split
  · next hshort => exact (byteRead_isField m p hshort).setWidth hn
  · exact .append (by omega) hn (byteRead_isField m p (by omega)) (byteRead_isField m _ (le_refl 8))

theorem intRead_isField (m : Memory) (p : Nat) {n : Nat} (hn : n ≤ 32) :
    IsField m p n (intRead m p n) := by
  simp only [intRead]
  split
  · next hshort => exact (shortRead_isField m p hshort).setWidth hn
  · exact .append (by omega) hn (shortRead_isField m p (by omega))
      (shortRead_isField m _ (le_refl 16))

theorem longRead_isField (m : Memory) (p : Nat) {n : Nat} (hn : n ≤ 64) :
    IsField m p n (longRead m p n) := by
  simp only [longRead]
  split
  · next hshort => exact (intRead_isField m p hshort).setWidth hn
  · exact .append (by omega) hn (intRead_isField m p (by omega)) (intRead_isField m _ (le_refl 32))

/-- R139, bit by bit, in every class that admits the count. -/
theorem fieldRead_isField (w : WidthClass) (m : Memory) (p : Nat) {n : Nat} (hn : 1 ≤ n)
    (hmax : n ≤ classMax w) : IsField m p n (fieldRead w m p n) := by
  cases w <;> simp only [classMax] at hmax
  case bit =>
    obtain rfl : n = 1 := by omega
    exact (byteRead_isField m p (by decide)).setWidth (by decide)
  case byte => exact (byteRead_isField m p hmax).setWidth (by omega)
  case short => exact (shortRead_isField m p hmax).setWidth (by omega)
  case int => exact (intRead_isField m p hmax).setWidth (by omega)
  case long => exact longRead_isField m p hmax

/-! ## Writes -/

/-- R133: `n` bits of `v` put into a byte with `s` bits below them. -/
theorem getLsbD_putInside (b v : Byte) (n s : Nat) {t : Nat} (ht : t < 8) :
    ((b &&& ~~~(byteMask n <<< s)) ||| ((v &&& byteMask n) <<< s)).getLsbD t =
      if s ≤ t ∧ t < s + n then v.getLsbD (t - s) else b.getLsbD t := by
  simp only [BitVec.getLsbD_or, BitVec.getLsbD_and, BitVec.getLsbD_not, BitVec.getLsbD_shiftLeft,
    getLsbD_byteMask]
  have hcount : s ≤ t → (t - s < n ↔ t < s + n) := by omega
  by_cases hs : s ≤ t
  · by_cases hn : t < s + n <;>
      simp [ht, hs, Nat.not_lt.2 hs, hcount hs, show t - s < 8 by omega, hn]
  · simp [ht, hs, Nat.lt_of_not_le hs]

/-- R134, first byte: the bits of `v` from `c` to `n` put at the byte's low end. -/
theorem getLsbD_putLow (b v : Byte) {n c : Nat} (hc : c ≤ n) {t : Nat} (ht : t < 8) :
    ((b &&& ~~~(byteMask (n - c))) ||| ((v &&& byteMask n) >>> c)).getLsbD t =
      if t < n - c then v.getLsbD (c + t) else b.getLsbD t := by
  simp only [BitVec.getLsbD_or, BitVec.getLsbD_and, BitVec.getLsbD_not, BitVec.getLsbD_ushiftRight,
    getLsbD_byteMask]
  have hcount : c + t < n ↔ t < n - c := by omega
  by_cases hn : t < n - c
  · have hwidth : v.getLsbD (c + t) = true → c + t < 8 := BitVec.lt_of_getLsbD
    simpa [ht, hn, hcount] using hwidth
  · simp [ht, hn, hcount]

/-- R134, second byte: the `c` low bits of `v` put at the byte's high end. -/
theorem getLsbD_putHigh (b v : Byte) {n c : Nat} (hc : c ≤ n) (hc8 : c ≤ 8) {t : Nat} (ht : t < 8) :
    ((b &&& byteMask (8 - c)) ||| (((v &&& byteMask n) &&& byteMask c) <<< (8 - c))).getLsbD t =
      if 8 - c ≤ t then v.getLsbD (t - (8 - c)) else b.getLsbD t := by
  simp only [BitVec.getLsbD_or, BitVec.getLsbD_and, BitVec.getLsbD_shiftLeft, getLsbD_byteMask]
  by_cases hhigh : 8 - c ≤ t
  · simp [ht, hhigh, Nat.not_lt.2 hhigh, show t - (8 - c) < 8 by omega, show t - (8 - c) < n by omega,
      show t - (8 - c) < c by omega]
  · simp [ht, hhigh, Nat.lt_of_not_le hhigh]

/-- R133, R134: `ByteWrite`, bit by bit, inside one byte and across two. -/
theorem bit_byteWrite {m : Memory} (p : Nat) {n : Nat} (v : BitVec 8) (q : Nat)
    (hm : Memory.wf m = true) (hn : n ≤ 8) :
    Memory.bit (byteWrite m p n v) q =
      if p ≤ q ∧ q < p + n then v.getLsbD (p + n - 1 - q) else Memory.bit m q := by
  have ht : 7 - q % 8 < 8 := by omega
  simp only [byteWrite]
  split
  · next hone =>
    rw [Memory.bit_set _ _ _ hm, getLsbD_putInside _ _ _ _ ht]
    by_cases hq : q / 8 = p / 8
    · rw [if_pos hq, Memory.bit, hq]
      exact ite_congr (propext (by omega)) (fun _ => congrArg v.getLsbD (by omega)) fun _ => rfl
    · rw [if_neg hq, if_neg (by omega)]
  · next htwo =>
    have hnext : p / 8 + 1 ≠ p / 8 := by omega
    have hhigh : 8 - p % 8 = n - (n + p % 8 - 8) := by omega
    have hlow : 16 - (n + p % 8) = 8 - (n + p % 8 - 8) := by omega
    rw [Memory.bit_set _ _ _ (Memory.set_wf _ _ hm), Memory.get_set _ _ _ hm, if_neg hnext,
      Memory.bit_set _ _ _ hm, hhigh, hlow, getLsbD_putHigh _ _ (by omega) (by omega) ht,
      getLsbD_putLow _ _ (by omega) ht]
    by_cases hq : q / 8 = p / 8
    · rw [if_neg (by omega), if_pos hq, Memory.bit, hq]
      exact ite_congr (propext (by omega)) (fun _ => congrArg v.getLsbD (by omega)) fun _ => rfl
    · rw [if_neg hq]
      by_cases hq' : q / 8 = p / 8 + 1
      · rw [if_pos hq', Memory.bit, hq']
        exact ite_congr (propext (by omega)) (fun _ => congrArg v.getLsbD (by omega)) fun _ => rfl
      · rw [if_neg hq', if_neg (by omega)]

/-- `FieldWritten` reads only the `n` low bits of the value. -/
theorem fieldWritten_congr {m m' : Memory} {p n : Nat} {v v' : Data} (h : FieldWritten m m' p n v)
    (hv : ∀ j, j < n → v.getLsbD j = v'.getLsbD j) : FieldWritten m m' p n v' := by
  obtain ⟨hfield, hrest⟩ := h
  exact ⟨fun k hk => (hfield k hk).trans (hv _ (by omega)), hrest⟩

/-- R135 to R137, the short case: writing the low chunk of `c` bits writes a field that fits it. -/
theorem fieldWritten_of_lowChunk {m m' : Memory} {p n c w : Nat} {v : BitVec w} (hc : c ≤ 64) (hn : n ≤ c)
    (h : FieldWritten m m' p n ((v.extractLsb' 0 c).setWidth 64)) :
    FieldWritten m m' p n (v.setWidth 64) :=
  fieldWritten_congr h fun j hj => by simp [show j < c by omega, show j < 64 by omega]

/-- R135 to R137, the long case: the high chunk's `n − c` low bits and then the low chunk of `c` bits write
one field. -/
theorem fieldWritten_append {m m' m'' : Memory} {p n c w : Nat} {v : BitVec w} (hc : 2 * c ≤ 64)
    (hcn : c ≤ n) (hn : n ≤ 2 * c)
    (hhi : FieldWritten m m' p (n - c) ((v.extractLsb' c c).setWidth 64))
    (hlo : FieldWritten m' m'' (p + n - c) c ((v.extractLsb' 0 c).setWidth 64)) :
    FieldWritten m m'' p n (v.setWidth 64) := by
  obtain ⟨hhigh, hhighrest⟩ := hhi
  obtain ⟨hlow, hlowrest⟩ := fieldWritten_of_lowChunk (by omega) (le_refl c) hlo
  refine ⟨fun k hk => ?_, fun q hq => ?_⟩
  · by_cases hchunk : k < n - c
    · rw [hlowrest _ (by omega), hhigh k hchunk]
      have hindex : c + (n - c - 1 - k) = n - 1 - k := by omega
      simp [hindex, show n - c - 1 - k < c by omega, show n - c - 1 - k < 64 by omega,
        show n - 1 - k < 64 by omega]
    · have hbit := hlow (k - (n - c)) (by omega)
      have hposition : p + n - c + (k - (n - c)) = p + k := by omega
      have hindex : c - 1 - (k - (n - c)) = n - 1 - k := by omega
      rwa [hposition, hindex] at hbit
  · rw [hlowrest q (by omega), hhighrest q (by omega)]

theorem byteWrite_written {m : Memory} (p : Nat) {n : Nat} (v : BitVec 8) (hm : Memory.wf m = true)
    (hn : n ≤ 8) : FieldWritten m (byteWrite m p n v) p n (v.setWidth 64) := by
  refine ⟨fun k hk => ?_, fun q hq => ?_⟩
  · rw [bit_byteWrite p v _ hm hn, if_pos (by omega), BitVec.getLsbD_setWidth,
      decide_eq_true (by omega), Bool.true_and]
    exact congrArg v.getLsbD (by omega)
  · rw [bit_byteWrite p v _ hm hn, if_neg (by omega)]

theorem shortWrite_written {m : Memory} (p : Nat) {n : Nat} (v : BitVec 16) (hm : Memory.wf m = true)
    (hn : n ≤ 16) : FieldWritten m (shortWrite m p n v) p n (v.setWidth 64) := by
  simp only [shortWrite]
  split
  · next hshort =>
    exact fieldWritten_of_lowChunk (by decide) hshort (byteWrite_written p _ hm hshort)
  · next hlong =>
    have hwf := (byteWrite_keeps (p + n) m p (n - 8) (v.extractLsb' 8 8) (by omega) (by omega)).1 hm
    exact fieldWritten_append (by decide) (by omega) hn (byteWrite_written p _ hm (by omega))
      (byteWrite_written _ _ hwf (le_refl 8))

theorem intWrite_written {m : Memory} (p : Nat) {n : Nat} (v : BitVec 32) (hm : Memory.wf m = true)
    (hn : n ≤ 32) : FieldWritten m (intWrite m p n v) p n (v.setWidth 64) := by
  simp only [intWrite]
  split
  · next hshort =>
    exact fieldWritten_of_lowChunk (by decide) hshort (shortWrite_written p _ hm hshort)
  · next hlong =>
    have hwf := (shortWrite_keeps (p + n) m p (n - 16) (v.extractLsb' 16 16) (by omega) (by omega)).1 hm
    exact fieldWritten_append (by decide) (by omega) hn (shortWrite_written p _ hm (by omega))
      (shortWrite_written _ _ hwf (le_refl 16))

theorem longWrite_written {m : Memory} (p : Nat) {n : Nat} (v : BitVec 64) (hm : Memory.wf m = true)
    (hn : n ≤ 64) : FieldWritten m (longWrite m p n v) p n (v.setWidth 64) := by
  simp only [longWrite]
  split
  · next hshort =>
    exact fieldWritten_of_lowChunk (by decide) hshort (intWrite_written p _ hm hshort)
  · next hlong =>
    have hwf := (intWrite_keeps (p + n) m p (n - 32) (v.extractLsb' 32 32) (by omega) (by omega)).1 hm
    exact fieldWritten_append (by decide) (by omega) hn (intWrite_written p _ hm (by omega))
      (intWrite_written _ _ hwf (le_refl 32))

/-- R98, R200: a value cut to its class writes a field that the class admits. -/
theorem fieldWritten_of_setWidth {m m' : Memory} {p n c : Nat} {v : Data} (hc : c ≤ 64) (hn : n ≤ c)
    (h : FieldWritten m m' p n ((v.setWidth c).setWidth 64)) : FieldWritten m m' p n v :=
  fieldWritten_congr h fun j hj => by simp [show j < c by omega, show j < 64 by omega]

/-- R140, in every class that admits the count. -/
theorem fieldWrite_written (w : WidthClass) {m : Memory} (p : Nat) {n : Nat} (v : Data)
    (hm : Memory.wf m = true) (hn : 1 ≤ n) (hmax : n ≤ classMax w) :
    FieldWritten m (fieldWrite w m p n v) p n v := by
  cases w <;> simp only [classMax] at hmax
  case bit =>
    obtain rfl : n = 1 := by omega
    exact fieldWritten_of_setWidth (c := 8) (by decide) (by decide)
      (byteWrite_written p _ hm (by decide))
  case byte => exact fieldWritten_of_setWidth (by decide) hmax (byteWrite_written p _ hm hmax)
  case short => exact fieldWritten_of_setWidth (by decide) hmax (shortWrite_written p _ hm hmax)
  case int => exact fieldWritten_of_setWidth (by decide) hmax (intWrite_written p _ hm hmax)
  case long => exact (BitVec.setWidth_eq v) ▸ longWrite_written p v hm hmax

/-- R60: a write at any position leaves a canonical buffer. -/
theorem fieldWrite_wf (w : WidthClass) {m : Memory} (p : Nat) {n : Nat} (v : Data)
    (hm : Memory.wf m = true) (hn : 1 ≤ n) : Memory.wf (fieldWrite w m p n v) = true :=
  (fieldWrite_keeps w (p + n) m p n v hn (by omega)).1 hm

/-! ## Bytes of an aligned field -/

/-- R63: byte `j` of an aligned field of `k` bytes is the byte of the value with weight `256^(k−1−j)`. -/
theorem get_eq_extractLsb' {m : Memory} {i k : Nat} {v : Data}
    (h : ∀ b, b < 8 * k → Memory.bit m (8 * i + b) = v.getLsbD (8 * k - 1 - b)) {j : Nat}
    (hj : j < k) : Memory.get m (i + j) = v.extractLsb' (8 * (k - 1 - j)) 8 := by
  refine BitVec.eq_of_getLsbD_eq fun t ht => ?_
  have hbit := h (8 * j + (7 - t)) (by omega)
  rw [Memory.getLsbD_get m _ ht, BitVec.getLsbD_extractLsb', decide_eq_true ht, Bool.true_and,
    Nat.mul_add, Nat.add_assoc, hbit]
  exact congrArg v.getLsbD (by omega)

/-- The `k` low digits of a number to the base `b`, most significant first. -/
theorem sum_digits_eq_mod_pow (b x k : Nat) :
    ∑ j ∈ Finset.range k, x / b ^ (k - 1 - j) % b * b ^ (k - 1 - j) = x % b ^ k := by
  rw [Finset.sum_range_reflect (fun j => x / b ^ j % b * b ^ j) k]
  induction k with
  | zero => simp [Nat.mod_one]
  | succ k ih => rw [Finset.sum_range_succ, ih, Nat.mod_pow_succ, Nat.mul_comm (b ^ k)]

/-- R63: a field's value is the sum of its bytes with their weights. -/
theorem IsField.toNat_eq_sum_bytes {m : Memory} {i k : Nat} {x : Data}
    (h : IsField m (8 * i) (8 * k) x) :
    x.toNat = ∑ j ∈ Finset.range k, (Memory.get m (i + j)).toNat * 256 ^ (k - 1 - j) := by
  have hlt : x.toNat < 256 ^ k := by
    rw [show 256 = 2 ^ 8 from rfl, ← Nat.pow_mul]
    exact h.toNat_lt
  rw [← Nat.mod_eq_of_lt hlt, ← sum_digits_eq_mod_pow]
  refine Finset.sum_congr rfl fun j hj => ?_
  rw [get_eq_extractLsb' (fun b hb => h.bit_eq hb) (Finset.mem_range.1 hj),
    BitVec.extractLsb'_toNat, Nat.shiftRight_eq_div_pow, Nat.pow_mul]

/-! ## The obligations -/

/-- Settles O41: the bits of the read, and those that the write leaves, make up the bytes. -/
theorem alignedFieldsAreBigEndian : Obligations.AlignedFieldsAreBigEndian := by
  intro w m i k hk hmax
  have hn : 1 ≤ 8 * k := by omega
  refine ⟨(fieldRead_isField w m (8 * i) hn hmax).toNat_eq_sum_bytes, fun v hm j hj => ?_⟩
  obtain ⟨hfield, -⟩ := fieldWrite_written w (8 * i) v hm hn hmax
  exact get_eq_extractLsb' hfield hj

/-- Settles O42: inside the field both writes leave the bits of `v`, outside it the second changes nothing. -/
theorem repeatedPokeLeavesSameBuffer : Obligations.RepeatedPokeLeavesSameBuffer := by
  intro w m p n v hm hn hmax
  have hwf := fieldWrite_wf w p v hm hn
  obtain ⟨hfirst, -⟩ := fieldWrite_written w p v hm hn hmax
  obtain ⟨hagain, hrest⟩ := fieldWrite_written w p v hwf hn hmax
  refine Memory.ext_bit (fieldWrite_wf w p v hwf hn) hwf fun q => ?_
  by_cases hq : q < p ∨ p + n ≤ q
  · exact hrest q hq
  · obtain ⟨k, rfl⟩ : ∃ k, q = p + k := ⟨q - p, by omega⟩
    have hk : k < n := by omega
    exact (hagain k hk).trans (hfirst k hk).symm

end Sys2Proof.Machine
end

section
/-! SUPPORT. The encoder beside the decoder: for the read side, the write side and the property side, the OP byte that
`encode` writes is the one that `decode` reads (R93, R96), and ARG carries the operand (R97). The two round trips
follow. -/

namespace Sys2Proof.Machine

/-! ## Every command stands on one side -/

/-- R93, R96: the 48 commands by side, mode and class, so that a fact about every command is three facts. An operand
that the command does not use is 0 here. -/
theorem instr_bySide {P : Instr → Prop} (read : ∀ v t w a, P (readSide v t w a))
    (write : ∀ v t w x a, P (writeSide v t w x a)) (property : ∀ sel a, P (propertySide sel a)) :
    ∀ i, P i
  | .tryPeekBit => read false false .bit 0
  | .peekBit => read false true .bit 0
  | .tryReadBit => read true false .bit 0
  | .readBit => read true true .bit 0
  | .tryPeekByte a => read false false .byte a
  | .peekByte a => read false true .byte a
  | .tryReadByte a => read true false .byte a
  | .readByte a => read true true .byte a
  | .tryPeekShort a => read false false .short a
  | .peekShort a => read false true .short a
  | .tryReadShort a => read true false .short a
  | .readShort a => read true true .short a
  | .tryPeekInt a => read false false .int a
  | .peekInt a => read false true .int a
  | .tryReadInt a => read true false .int a
  | .readInt a => read true true .int a
  | .tryPeekLong a => read false false .long a
  | .peekLong a => read false true .long a
  | .tryReadLong a => read true false .long a
  | .readLong a => read true true .long a
  | .tryPokeBit x => write false false .bit x 0
  | .pokeBit x => write false true .bit x 0
  | .tryWriteBit x => write true false .bit x 0
  | .writeBit x => write true true .bit x 0
  | .tryPokeByte x a => write false false .byte x a
  | .pokeByte x a => write false true .byte x a
  | .tryWriteByte x a => write true false .byte x a
  | .writeByte x a => write true true .byte x a
  | .tryPokeShort x a => write false false .short x a
  | .pokeShort x a => write false true .short x a
  | .tryWriteShort x a => write true false .short x a
  | .writeShort x a => write true true .short x a
  | .tryPokeInt x a => write false false .int x a
  | .pokeInt x a => write false true .int x a
  | .tryWriteInt x a => write true false .int x a
  | .writeInt x a => write true true .int x a
  | .tryPokeLong x a => write false false .long x a
  | .pokeLong x a => write false true .long x a
  | .tryWriteLong x a => write true false .long x a
  | .writeLong x a => write true true .long x a
  | .new a => property 0 a
  | .getBitLength => property 1 0
  | .getBitPosition => property 2 0
  | .setBitPosition a => property 3 a
  | .getBytePosition => property 4 0
  | .setBytePosition a => property 5 a
  | .getBitOffset => property 6 0
  | .getRemainingBits => property 7 0

/-! ## The encoder, by side -/

/-- R97: a command of the Bit class takes no count. -/
def takesCount (w : WidthClass) : Bool := w ≠ .bit

/-- R96: the property-side commands that take an operand are New, SetBitPosition and SetBytePosition. -/
def takesPosition (sel : BitVec 3) : Bool := sel = 0 || sel = 3 || sel = 5

/-- R97, R104: the ARG field of a command, which is 0 where the command does not use it. -/
def operandField (used : Bool) (a : Int) : Arg := if used then argOf a else 0

theorem encode_readSide (v t : Bool) (w : WidthClass) (a : Int) :
    encode (readSide v t w a) = ⟨opA false v t w, operandField (takesCount w) a, 0⟩ := by
  cases v <;> cases t <;> cases w <;> rfl

theorem encode_writeSide (v t : Bool) (w : WidthClass) (x : Data) (a : Int) :
    encode (writeSide v t w x a) = ⟨opA true v t w, operandField (takesCount w) a, x⟩ := by
  cases v <;> cases t <;> cases w <;> rfl

theorem encode_propertySide (sel : BitVec 3) (a : Int) :
    encode (propertySide sel a) = ⟨opP sel, operandField (takesPosition sel) a, 0⟩ := by
  fin_cases sel <;> rfl

/-! ## The fields of the encoder's OP bytes, and the decoder on them -/

/-- R93: the fields of the OP byte `0 S V T 0 W`. -/
theorem opA_fields (s v t : Bool) (w : WidthClass) :
    (opA s v t w).getLsbD 7 = false ∧ (opA s v t w).getLsbD 6 = s ∧ (opA s v t w).getLsbD 5 = v ∧
      (opA s v t w).getLsbD 4 = t ∧ (opA s v t w).getLsbD 3 = false ∧
      (opA s v t w).extractLsb 2 0 = fieldOfWidth w := by
  cases s <;> cases v <;> cases t <;> cases w <;> decide

/-- R96: the fields of the OP byte `1 0000` with its selector. -/
theorem opP_fields (sel : BitVec 3) :
    (opP sel).getLsbD 7 = true ∧ (opP sel).extractLsb 6 3 = 0 ∧ (opP sel).extractLsb 2 0 = sel := by
  revert sel
  decide

theorem decode_readOp (v t : Bool) (w : WidthClass) (arg : Arg) (wdata : Data) :
    decode ⟨opA false v t w, arg, wdata⟩ = .ok (readSide v t w (signedArg arg)) := by
  obtain ⟨h7, h6, h5, h4, h3, hw⟩ := opA_fields false v t w
  simp only [decode, h7, h6, h5, h4, h3, hw, widthOfField_fieldOfWidth]
  rfl

theorem decode_writeOp (v t : Bool) (w : WidthClass) (arg : Arg) (wdata : Data) :
    decode ⟨opA true v t w, arg, wdata⟩ = .ok (writeSide v t w wdata (signedArg arg)) := by
  obtain ⟨h7, h6, h5, h4, h3, hw⟩ := opA_fields true v t w
  simp only [decode, h7, h6, h5, h4, h3, hw, widthOfField_fieldOfWidth]
  rfl

theorem decode_propertyOp (sel : BitVec 3) (arg : Arg) (wdata : Data) :
    decode ⟨opP sel, arg, wdata⟩ = .ok (propertySide sel (signedArg arg)) := by
  obtain ⟨h7, hreserved, hsel⟩ := opP_fields sel
  simp only [decode, h7, hreserved, hsel]
  rfl

/-- R93: the encoder's format-A byte has the fields of the byte that was decoded. -/
theorem opA_of_fields {op : Byte} {w : WidthClass} (h7 : op.getLsbD 7 = false)
    (h3 : op.getLsbD 3 = false) (hw : op.extractLsb 2 0 = fieldOfWidth w) :
    opA (op.getLsbD 6) (op.getLsbD 5) (op.getLsbD 4) w = op := by
  rw [opA, ← hw]
  clear hw
  revert op
  decide

/-- R96: the encoder's format-P byte has the selector of the byte that was decoded. -/
theorem opP_of_fields {op : Byte} (h7 : op.getLsbD 7 = true) (h6 : op.extractLsb 6 3 = 0) :
    opP (op.extractLsb 2 0) = op := by
  revert op
  decide

/-! ## Operands through ARG -/

theorem wellFormed_readSide (v t : Bool) (w : WidthClass) (a : Int) :
    (readSide v t w a).wellFormed = (!takesCount w || argFits a) := by
  cases v <;> cases t <;> cases w <;> rfl

theorem wellFormed_writeSide (v t : Bool) (w : WidthClass) (x : Data) (a : Int) :
    (writeSide v t w x a).wellFormed = (!takesCount w || argFits a) := by
  cases v <;> cases t <;> cases w <;> rfl

theorem wellFormed_propertySide (sel : BitVec 3) (a : Int) :
    (propertySide sel a).wellFormed = (!takesPosition sel || argFits a) := by
  fin_cases sel <;> rfl

theorem readSide_congr {w : WidthClass} (hw : takesCount w = false) (v t : Bool) (a b : Int) :
    readSide v t w a = readSide v t w b := by
  cases w <;> cases hw
  cases v <;> cases t <;> rfl

theorem writeSide_congr {w : WidthClass} (hw : takesCount w = false) (v t : Bool) (x : Data) (a b : Int) :
    writeSide v t w x a = writeSide v t w x b := by
  cases w <;> cases hw
  cases v <;> cases t <;> rfl

theorem propertySide_congr {sel : BitVec 3} (hsel : takesPosition sel = false) (a b : Int) :
    propertySide sel a = propertySide sel b := by
  fin_cases sel <;> cases hsel <;> rfl

/-- R97: a command `f a` is the one whose operand is read back from its ARG field, if ARG can carry the operand or
the command ignores it. -/
theorem operandField_carries {f : Int → Instr} {used : Bool} {a : Int}
    (hunused : used = false → ∀ a b, f a = f b) (hfits : (!used || argFits a) = true) :
    f (signedArg (operandField used a)) = f a := by
  cases used with
  | false => exact hunused rfl _ _
  | true => exact congrArg f (signedArg_argOf hfits)

/-- R97, R104: ARG is carried unchanged where it is used, and is 0 where it is not. -/
theorem operandField_signedArg (used : Bool) (arg : Arg) :
    operandField used (signedArg arg) = arg ∨ operandField used (signedArg arg) = 0 := by
  cases used with
  | false => exact .inr rfl
  | true =>
    left
    rw [operandField, if_pos rfl, argOf, signedArg_eq_toInt, BitVec.ofInt_toInt]

/-! ## The round trips -/

/-- R93 to R98: the request of a well-formed command loses none of its operands. -/
theorem decode_encode {i : Instr} : i.wellFormed = true → decode (encode i) = .ok i := by
  induction i using instr_bySide with
  | read v t w a =>
    intro h
    rw [wellFormed_readSide] at h
    rw [encode_readSide, decode_readOp, operandField_carries (fun hw => readSide_congr hw v t) h]
  | write v t w x a =>
    intro h
    rw [wellFormed_writeSide] at h
    rw [encode_writeSide, decode_writeOp, operandField_carries (fun hw => writeSide_congr hw v t x) h]
  | property sel a =>
    intro h
    rw [wellFormed_propertySide] at h
    rw [encode_propertySide, decode_propertyOp, operandField_carries propertySide_congr h]

/-- The three fields of a request stand side by side in its word (log entry 3). -/
theorem ofWord_toWord (r : Request) : Request.ofWord r.toWord = r := by
  obtain ⟨op, arg, wdata⟩ := r
  have hop : (wdata ++ arg ++ op).extractLsb' 0 8 = op := BitVec.extractLsb'_append_eq_right
  have harg : (wdata ++ arg ++ op).extractLsb' 8 32 = arg :=
    (BitVec.extractLsb'_append_eq_of_le (by decide)).trans BitVec.extractLsb'_append_eq_right
  have hwdata : (wdata ++ arg ++ op).extractLsb' 40 64 = wdata :=
    (BitVec.extractLsb'_append_eq_of_le (by decide)).trans BitVec.extractLsb'_append_eq_left
  simp only [Request.ofWord, Request.toWord, hop, harg, hwdata]

/-- A decoded command can be sent: R97 reads no operand that ARG cannot carry. -/
theorem wellFormed_of_decode {r : Request} {i : Instr} (h : decode r = .ok i) : i.wellFormed = true := by
  rcases decode_cases r with
    ⟨-, -, heq⟩ | ⟨⟨e, heq⟩, -⟩ | ⟨w, -, -, -, -, heq⟩ | ⟨w, -, -, -, -, heq⟩ <;>
    cases heq.symm.trans h
  · rw [wellFormed_propertySide, argFits_signedArg, Bool.or_true]
  · rw [wellFormed_readSide, argFits_signedArg, Bool.or_true]
  · rw [wellFormed_writeSide, argFits_signedArg, Bool.or_true]

/-- R92 to R98, R104: the encoder keeps the OP byte that was decoded, and each field or else puts 0 in it. -/
theorem encode_of_decode {r : Request} {i : Instr} (h : decode r = .ok i) :
    (encode i).op = r.op ∧ ((encode i).arg = r.arg ∨ (encode i).arg = 0) ∧
      ((encode i).wdata = r.wdata ∨ (encode i).wdata = 0) := by
  rcases decode_cases r with
    ⟨h7, hreserved, heq⟩ | ⟨⟨e, heq⟩, -⟩ | ⟨w, h7, h3, h6, hw, heq⟩ | ⟨w, h7, h3, h6, hw, heq⟩ <;>
    cases heq.symm.trans h
  · rw [encode_propertySide]
    exact ⟨opP_of_fields h7 hreserved, operandField_signedArg _ _, .inr rfl⟩
  · rw [encode_readSide, ← h6]
    exact ⟨opA_of_fields h7 h3 hw, operandField_signedArg _ _, .inr rfl⟩
  · rw [encode_writeSide, ← h6]
    exact ⟨opA_of_fields h7 h3 hw, operandField_signedArg _ _, .inl rfl⟩

/-! ## The obligations -/

/-- Settles O2: side by side, the decoder reads from the OP byte what the encoder put there, and ARG carries the
operand; the word of a request gives its fields back. -/
theorem decodeInvertsEncode : Obligations.DecodeInvertsEncode := by
  intro i hi
  rw [ofWord_toWord]
  exact ⟨decode_encode hi, decode_encode hi⟩

/-- Settles O3: the fields of the decoded OP byte make up the byte again, and O2's round trip applies. -/
theorem encodeInvertsDecode : Obligations.EncodeInvertsDecode := by
  intro r i h
  have hi := wellFormed_of_decode h
  obtain ⟨hop, harg, hwdata⟩ := encode_of_decode h
  exact ⟨hi, hop, harg, hwdata, decode_encode hi⟩

end Sys2Proof.Machine
end

section
/-! SUPPORT. The side check of R101: an access answers ERR_ILLEGAL on a unit of the other kind, and on a unit of its
own kind it answers with another status. -/

namespace Sys2Proof.Machine

open Sys2Proof.Claims

/-! ## Accesses on either kind -/

theorem readAccess_writer {w : WidthClass} {v : Motion} {t : Variant} {a : Int} {s : State}
    (hkind : s.kind = .writer) : readAccess w v t a s = .next (raise .errIllegal s) := by
  simp only [readAccess, hkind]

theorem writeAccess_reader {w : WidthClass} {v : Motion} {t : Variant} {x : Data} {a : Int} {s : State}
    (hkind : s.kind = .reader) : writeAccess w v t x a s = .next (raise .errIllegal s) := by
  simp only [writeAccess, hkind]

/-- R101: the outcome is a response, and its status is not ERR_ILLEGAL. -/
def AnswersLegally (o : Host.Outcome State Fault Refusal) : Prop :=
  ∃ t status rdata, o = .next t ∧ t.response = some ⟨status, rdata⟩ ∧ status ≠ .errIllegal

theorem answersLegally_respond {status : Status} (hstatus : status ≠ .errIllegal) (rdata : Data) (s : State) :
    AnswersLegally (.next (respond status rdata s)) :=
  ⟨_, status, rdata, rfl, respond_response status rdata s, hstatus⟩

theorem exhausted_ne_errIllegal (t : Variant) : exhausted t ≠ .errIllegal := by cases t <;> decide

theorem readAccess_answersLegally (w : WidthClass) (v : Motion) (t : Variant) (a : Int) {s : State}
    (hkind : s.kind = .reader) : AnswersLegally (readAccess w v t a s) := by
  rcases readAccess_cases w v t a s with
    ⟨hwriter, -⟩ | ⟨-, -, heq⟩ | ⟨n, -, -, -, heq⟩ | ⟨n, -, -, -, heq⟩
  · cases hkind.symm.trans hwriter
  · exact heq ▸ answersLegally_respond (by decide) _ _
  · exact heq ▸ answersLegally_respond (exhausted_ne_errIllegal t) _ _
  · exact heq ▸ answersLegally_respond (by decide) _ _

theorem writeAccess_answersLegally (w : WidthClass) (v : Motion) (t : Variant) (x : Data) (a : Int) {s : State}
    (hkind : s.kind = .writer) : AnswersLegally (writeAccess w v t x a s) := by
  rcases writeAccess_cases w v t x a s with
    ⟨hreader, -⟩ | ⟨-, -, heq⟩ | ⟨n, -, -, -, heq⟩ | ⟨n, -, -, -, heq⟩
  · cases hkind.symm.trans hreader
  · exact heq ▸ answersLegally_respond (by decide) _ _
  · exact heq ▸ answersLegally_respond (exhausted_ne_errIllegal t) _ _
  · exact heq ▸ answersLegally_respond (by decide) _ _

/-! ## Format-A requests -/

/-- R101: a decoded format-A command is illegal on a unit of the other kind, and on no other. -/
theorem exec_formatA {r : Request} {i : Instr} (hd : decode r = .ok i) (h7 : r.op.getLsbD 7 = false) (s : State) :
    (wrongSide s.kind r.op = true → exec i s = .next (raise .errIllegal s)) ∧
      (wrongSide s.kind r.op = false → AnswersLegally (exec i s)) := by
  rcases decode_cases r with
    ⟨h7', -⟩ | ⟨⟨e, heq⟩, -⟩ | ⟨w, -, -, h6, -, heq⟩ | ⟨w, -, -, h6, -, heq⟩
  · cases h7.symm.trans h7'
  · cases heq.symm.trans hd
  · cases heq.symm.trans hd
    rw [exec_readSide]
    cases hkind : s.kind <;> simp only [wrongSide, readSideOp, writeSideOp, h7, h6]
    · exact ⟨nofun, fun _ => readAccess_answersLegally _ _ _ _ hkind⟩
    · exact ⟨fun _ => readAccess_writer hkind, nofun⟩
  · cases heq.symm.trans hd
    rw [exec_writeSide]
    cases hkind : s.kind <;> simp only [wrongSide, readSideOp, writeSideOp, h7, h6]
    · exact ⟨fun _ => writeAccess_reader hkind, nofun⟩
    · exact ⟨nofun, fun _ => writeAccess_answersLegally _ _ _ _ _ hkind⟩

/-- R100: an OP value that does not decode has one of the three illegal forms. -/
theorem illegalOp_of_decode_error {r : Request} {e : Illegal} (h : decode r = .error e) :
    illegalOp r.op = true := by
  rcases decode_cases r with ⟨-, -, heq⟩ | ⟨-, hform⟩ | ⟨w, -, -, -, -, heq⟩ | ⟨w, -, -, -, -, heq⟩
  case inr.inl =>
    rcases hform with ⟨h7, h6⟩ | ⟨h7, h3⟩ | ⟨h7, hw⟩
    · simp only [illegalOp, h7, decide_eq_true h6, Bool.and_self, Bool.or_true]
    · simp only [illegalOp, h7, h3, Bool.not_false, Bool.and_self, Bool.true_or]
    · simp only [illegalOp, h7, decide_eq_true hw, Bool.not_false, Bool.and_self, Bool.or_true, Bool.true_or]
  all_goals cases heq.symm.trans h

/-- R275: a failed command leaves the unit as it was, but for the event taken and the response. -/
theorem raise_dropEvent {s : State} {e : HostEvent} {es : List HostEvent} (hhost : s.host = e :: es)
    (status : Status) :
    raise status (dropEvent s) = { s with host := es, response := some ⟨status, 0⟩ } := by
  simp only [raise, respond, dropEvent, hhost, List.tail_cons]

/-! ## The obligations -/

/-- Settles O5: the side check comes first in a decoded access, and an OP value that does not decode is illegal
on both kinds. -/
theorem wrongSideAnswersIllegal : Obligations.WrongSideAnswersIllegal := by
  rintro s r rest ⟨hhost, hlent⟩ h7
  rw [← raise_dropEvent hhost, step_command hhost, if_pos hlent]
  cases hd : decode r with
  | error e => exact ⟨fun _ => rfl, fun _ hlegal => by simp [illegalOp_of_decode_error hd] at hlegal⟩
  | ok i =>
    obtain ⟨hwrong, hright⟩ := exec_formatA hd h7 (dropEvent s)
    exact ⟨hwrong, fun hside _ => hright hside⟩

end Sys2Proof.Machine
end

section
/-! SUPPORT. The pseudo-instructions (R105): a line whose count or offset is left out assembles as the line with the
default written. -/

namespace Sys2Proof.Machine

/-- R104: an access line of a class other than Bit is the access with its count, or with the default one. -/
theorem assemble_readSide {w : WidthClass} (hw : w ≠ .bit) (v t : Bool) (count : Option Int) :
    assemble (.readSide v t w count) =
      ifArgFits (countOrDefault w count) (readSide v t w (countOrDefault w count)) := by
  cases w
  case bit => exact absurd rfl hw
  all_goals rfl

theorem assemble_writeSide {w : WidthClass} (hw : w ≠ .bit) (v t : Bool) (value : Nat) (count : Option Int) :
    assemble (.writeSide v t w value count) =
      if value < 2 ^ 64 then
        ifArgFits (countOrDefault w count)
          (writeSide v t w (BitVec.ofNat 64 value) (countOrDefault w count))
      else none := by
  cases w
  case bit => exact absurd rfl hw
  all_goals rfl

/-- R105: a line without its count is the line with `WMAX`. -/
theorem assemble_readSide_default {w : WidthClass} (hw : w ≠ .bit) (v t : Bool) :
    assemble (.readSide v t w none) = assemble (.readSide v t w (some (classMax w))) := by
  rw [assemble_readSide hw, assemble_readSide hw]
  rfl

theorem assemble_writeSide_default {w : WidthClass} (hw : w ≠ .bit) (v t : Bool) (value : Nat) :
    assemble (.writeSide v t w value none) = assemble (.writeSide v t w value (some (classMax w))) := by
  rw [assemble_writeSide hw, assemble_writeSide hw]
  rfl

/-- A line of each side, and New, with the operand left out and with its default written. -/
theorem parseLine_defaults :
    parseLine "ReadByte" = some (.readSide true true .byte none) ∧
      parseLine "ReadByte 8" = some (.readSide true true .byte (some 8)) ∧
      parseLine "WriteInt 0xD" = some (.writeSide true true .int 0xD none) ∧
      parseLine "WriteInt 0xD, 32" = some (.writeSide true true .int 0xD (some 32)) ∧
      parseLine "New" = some (.new none) ∧ parseLine "New 0" = some (.new (some 0)) := by
  decide

/-! ## The obligations -/

/-- Settles O56: with the default written out, a line assembles from the same count. -/
theorem omittedCountsMeanFullWidth : Obligations.OmittedCountsMeanFullWidth := by
  obtain ⟨hread, hread8, hwrite, hwrite32, hnew, hnew0⟩ := parseLine_defaults
  refine ⟨fun v t w hw => ⟨assemble_readSide_default hw v t, assemble_writeSide_default hw v t⟩, rfl, ?_, ?_, ?_⟩
  · rw [assembleText, assembleText, hread, hread8]
    exact congrArg (Option.map encode) (assemble_readSide_default (w := .byte) (by decide) true true)
  · rw [assembleText, assembleText, hwrite, hwrite32]
    exact congrArg (Option.map encode) (assemble_writeSide_default (w := .int) (by decide) true true 0xD)
  · rw [assembleText, assembleText, hnew, hnew0]
    rfl

end Sys2Proof.Machine
end

section
/-! SUPPORT. A write and the read of the same field (R142), in classes that may differ: the bits that the write leaves
(`FieldWritten`) are the ones that the read returns (`IsField`). -/

namespace Sys2Proof.Machine

open Sys2Proof.Claims

/-- R142: the value of a field just written is the written value cut to the field's count. -/
theorem IsField.toNat_eq_mod_of_written {m m' : Memory} {p n : Nat} {v x : Data} (hread : IsField m' p n x)
    (hwritten : FieldWritten m m' p n v) : x.toNat = v.toNat % 2 ^ n := by
  obtain ⟨hfield, -⟩ := hwritten
  refine Nat.eq_of_testBit_eq fun j => ?_
  rw [Nat.testBit_mod_two_pow, BitVec.testBit_toNat, BitVec.testBit_toNat, hread]
  by_cases hj : j < n
  · have hindex : n - 1 - (n - 1 - j) = j := by omega
    rw [hfield _ (by omega), hindex]
  · simp [hj]

/-! ## The obligations -/

/-- Settles O39: the read returns the bits that the write left, whichever two classes admit the count. -/
theorem writeThenReadRoundTrips : Obligations.WriteThenReadRoundTrips := by
  intro w w' m p n v hm hn hmax hmax'
  have hmod : (fieldRead w' (fieldWrite w m p n v) p n).toNat = v.toNat % 2 ^ n :=
    (fieldRead_isField w' _ p hn hmax').toNat_eq_mod_of_written (fieldWrite_written w p v hm hn hmax)
  exact ⟨hmod, fun hlt => hmod.trans (Nat.mod_eq_of_lt hlt)⟩

end Sys2Proof.Machine
end

section
/-! SUPPORT. The read side as one family: a read access, its text, its OP byte and its effect are each said once for
every `V`, `T` and class (R93, R95, R160), with the value as the sum of the field's bits (R139). The 20 commands of
41_reader.md are its members. -/

namespace Sys2Proof.Machine

open Sys2Proof.Claims

/-! ## The value of a field as a sum of bits -/

/-- R139: the bits of a field, each with its weight, sum to the field's value. -/
theorem IsField.toNat_eq_fieldValue {w : Nat} {m : Memory} {p n : Nat} {x : BitVec w} (h : IsField m p n x) :
    x.toNat = fieldValue m p n := by
  rw [← Nat.mod_eq_of_lt h.toNat_lt, ← sum_digits_eq_mod_pow]
  refine Finset.sum_congr rfl fun k hk => ?_
  rw [h.bit_eq (Finset.mem_range.1 hk), ← BitVec.testBit_toNat, Nat.toNat_testBit]

/-- R99, R160: RDATA of a read is the closed form, zero-extended to 64 bits. -/
theorem fieldRead_eq_ofNat_fieldValue (w : WidthClass) (m : Memory) (p : Nat) {n : Nat} (hn : 1 ≤ n)
    (hmax : n ≤ classMax w) : fieldRead w m p n = BitVec.ofNat 64 (fieldValue m p n) := by
  rw [← (fieldRead_isField w m p hn hmax).toNat_eq_fieldValue, BitVec.ofNat_toNat, BitVec.setWidth_eq]

/-! ## A read access, by kind and count -/

/-- R271, R277: the width check comes before the exhaustion check. -/
theorem readAccess_outOfRange {w : WidthClass} {v : Motion} {t : Variant} {a : Int} {s : State}
    (hkind : s.kind = .reader) (hcount : bitCount w a = none) :
    readAccess w v t a s = .next (raise .errRange s) := by
  simp only [readAccess, hkind, hcount]

/-- R160, R272: past the width check, the bits left decide between exhaustion and the field's value. -/
theorem readAccess_inRange {w : WidthClass} {v : Motion} {t : Variant} {a : Int} {n : Nat} {s : State}
    (hkind : s.kind = .reader) (hcount : bitCount w a = some n) :
    (s.bitLength < s.position + n → readAccess w v t a s = .next (raise (exhausted t) s)) ∧
      (s.position + n ≤ s.bitLength →
        readAccess w v t a s = .next (respond .ok (fieldRead w s.buf s.position n) (advanceBy v n s))) := by
  rcases readAccess_cases w v t a s with
    ⟨hwriter, -⟩ | ⟨-, hnone, -⟩ | ⟨k, -, hsome, hshort, heq⟩ | ⟨k, -, hsome, hfits, heq⟩
  · cases hkind.symm.trans hwriter
  · cases hcount.symm.trans hnone
  · cases hcount.symm.trans hsome
    exact ⟨fun _ => heq, fun hfits => absurd hshort (Nat.not_lt.2 hfits)⟩
  · cases hcount.symm.trans hsome
    exact ⟨fun hshort => absurd hshort (Nat.not_lt.2 hfits), fun _ => heq⟩

/-! ## The read-side commands against the statements' words -/

theorem exhausted_variantOf (t : Bool) : exhausted (variantOf t) = exhaustion t := by cases t <;> rfl

/-- R160: a successful read sets the response and, where `V = 1`, `pos`; no other field. -/
theorem respond_advanceBy_motionOf (v : Bool) (n : Nat) (rdata : Data) (s : State) :
    respond .ok rdata (advanceBy (motionOf v) n s) =
      { s with pos := positionAfter s v n, response := some ⟨.ok, rdata⟩ } := by
  cases v <;> rfl

/-- R101: no read-side command runs on a Writer. -/
theorem readSide_illegalOn_writer (v t : Bool) (w : WidthClass) (a : Int) :
    IllegalOn .writer (readSide v t w a) := by
  intro s hkind
  rw [exec_readSide]
  exact readAccess_writer hkind

/-- R271: a count outside `1 .. WMAX` is refused by every class that takes one. -/
theorem readSide_rangeErrorOn_reader (v t : Bool) {w : WidthClass} {a : Int} (hcount : bitCount w a = none) :
    RangeErrorOn .reader (readSide v t w a) := by
  intro s hkind
  rw [exec_readSide]
  exact readAccess_outOfRange hkind hcount

/-- R160, R161 to R180: the effect on a Reader of every read-side command whose count passes the width check. -/
theorem readSide_readsField (v t : Bool) {w : WidthClass} {a : Int} {n : Nat} (hcount : bitCount w a = some n) :
    ReadsField v t n (readSide v t w a) := by
  intro s hkind
  obtain ⟨hn, hmax⟩ := bitCount_bounds hcount
  obtain ⟨hshort, hfits⟩ := readAccess_inRange (v := motionOf v) (t := variantOf t) hkind hcount
  rw [exec_readSide, ← exhausted_variantOf, ← fieldRead_eq_ofNat_fieldValue w s.buf s.position hn hmax,
    ← respond_advanceBy_motionOf]
  simp only [remaining]
  exact ⟨fun h => hshort (by omega), fun h => hfits (by omega)⟩

/-! ## The text of a read-side line -/

/-- R104, R105: a mnemonic alone assembles to its OP byte, with the full width in ARG where the class takes a count. -/
theorem assembleText_readSide {name : String} {v t : Bool} {w : WidthClass}
    (hname : parseLine name = some (.readSide v t w none)) :
    assembleText name = some ⟨opA false v t w, operandField (takesCount w) (classMax w), 0⟩ := by
  have hline : assemble (.readSide v t w none) = some (readSide v t w (classMax w)) := by
    cases w
    case bit => exact congrArg some (readSide_congr rfl v t _ _)
    all_goals rfl
  rw [assembleText, hname, Option.bind_some, hline, Option.map_some, encode_readSide]

/-! ## The two rules, for every mode and class -/

/-- R161 to R164: the Bit class, whose count is 1 and whose ARG is ignored. -/
theorem readSide_bitReadRule {name : String} (v t : Bool)
    (hname : parseLine name = some (.readSide v t .bit none)) :
    BitReadRule name (opA false v t .bit) v t (readSide v t .bit 1) :=
  ⟨assembleText_readSide hname,
    fun arg wdata => (decode_readOp v t .bit arg wdata).trans (congrArg Except.ok (readSide_congr rfl v t _ _)),
    readSide_illegalOn_writer v t .bit 1, readSide_readsField v t (bitCount_bit 1)⟩

/-- R165 to R180: a class that takes its count from ARG. -/
theorem readSide_readRule {name : String} (v t : Bool) {w : WidthClass} (hw : w ≠ .bit)
    (hname : parseLine name = some (.readSide v t w none)) :
    ReadRule name (opA false v t w) (classMax w) v t (readSide v t w) := by
  refine ⟨?_, fun arg wdata => ?_, fun a => ⟨readSide_illegalOn_writer v t w a, fun hout => ?_, fun hlow hhigh => ?_⟩⟩
  · rw [assembleText_readSide hname, takesCount, decide_eq_true hw, operandField, if_pos rfl, argOf,
      BitVec.ofInt_natCast]
  · rw [decode_readOp, signedArg_eq_toInt]
  · exact readSide_rangeErrorOn_reader v t ((bitCount_eq_none hw).2 hout)
  · exact readSide_readsField v t ((bitCount_eq_some hw).2 ⟨by omega, by omega, by omega⟩)

/-- R95: the four modes of a class that takes a count, by their mnemonics. -/
theorem readSide_readRules {w : WidthClass} (hw : w ≠ .bit) {tryPeek peek tryRead read : String}
    (hnames : parseLine tryPeek = some (.readSide false false w none) ∧
      parseLine peek = some (.readSide false true w none) ∧
      parseLine tryRead = some (.readSide true false w none) ∧
      parseLine read = some (.readSide true true w none)) :
    ReadRule tryPeek (opA false false false w) (classMax w) false false (readSide false false w) ∧
      ReadRule peek (opA false false true w) (classMax w) false true (readSide false true w) ∧
      ReadRule tryRead (opA false true false w) (classMax w) true false (readSide true false w) ∧
      ReadRule read (opA false true true w) (classMax w) true true (readSide true true w) := by
  obtain ⟨htryPeek, hpeek, htryRead, hread⟩ := hnames
  exact ⟨readSide_readRule false false hw htryPeek, readSide_readRule false true hw hpeek,
    readSide_readRule true false hw htryRead, readSide_readRule true true hw hread⟩

/-! ## The obligations -/

/-- Settles O7: the Bit class in the four modes; what is left to compute is how each mnemonic is parsed. -/
theorem bitReadCommands : Obligations.BitReadCommands :=
  ⟨readSide_bitReadRule false false (by decide), readSide_bitReadRule false true (by decide),
    readSide_bitReadRule true false (by decide), readSide_bitReadRule true true (by decide)⟩

/-- Settles O8: the Byte class takes a count, and its four mnemonics name it. -/
theorem byteReadCommands : Obligations.ByteReadCommands :=
  readSide_readRules (w := .byte) (by decide) (by decide)

/-- Settles O9: the Short class takes a count, and its four mnemonics name it. -/
theorem shortReadCommands : Obligations.ShortReadCommands :=
  readSide_readRules (w := .short) (by decide) (by decide)

/-- Settles O10: the Int class takes a count, and its four mnemonics name it. -/
theorem intReadCommands : Obligations.IntReadCommands :=
  readSide_readRules (w := .int) (by decide) (by decide)

/-- Settles O11: the Long class takes a count, and its four mnemonics name it. -/
theorem longReadCommands : Obligations.LongReadCommands :=
  readSide_readRules (w := .long) (by decide) (by decide)

end Sys2Proof.Machine
end

section
/-! SUPPORT. The write side as one family: a write access, its text, its OP byte and its effect are each said once for
every `V`, `T` and class (R93, R95, R200), with the buffer pinned bit by bit (R140) and byte by byte outside the field
(R65). The 20 commands of 42_writer.md are its members. -/

namespace Sys2Proof.Machine

open Sys2Proof.Claims

/-! ## What a field write leaves -/

/-- R65: a byte outside the field's bytes has all its bits outside the field. -/
theorem otherBytesKept_of_written {m m' : Memory} {p n : Nat} {v : Data} (h : FieldWritten m m' p n v) :
    OtherBytesKept m m' p n := by
  obtain ⟨-, hrest⟩ := h
  intro i hi
  refine BitVec.eq_of_getLsbD_eq fun t ht => ?_
  rw [Memory.getLsbD_get m' i ht, Memory.getLsbD_get m i ht, hrest _ (by omega)]

theorem classMax_le (w : WidthClass) : classMax w ≤ 64 := by cases w <;> decide

/-- R98, R140: the cut of WDATA to the class keeps every bit that the field takes. -/
theorem fieldWrite_writeValue_written (w : WidthClass) {m : Memory} (p : Nat) {n : Nat} (wdata : Data)
    (hm : Memory.wf m = true) (hn : 1 ≤ n) (hmax : n ≤ classMax w) :
    FieldWritten m (fieldWrite w m p n (writeValue w wdata)) p n wdata :=
  fieldWritten_of_setWidth (classMax_le w) hmax (fieldWrite_written w p (writeValue w wdata) hm hn hmax)

/-! ## A write access, by kind and count -/

/-- R271, R277: the width check comes before the exhaustion check. -/
theorem writeAccess_outOfRange {w : WidthClass} {v : Motion} {t : Variant} {wdata : Data} {a : Int} {s : State}
    (hkind : s.kind = .writer) (hcount : bitCount w a = none) :
    writeAccess w v t wdata a s = .next (raise .errRange s) := by
  simp only [writeAccess, hkind, hcount]

/-- R200, R272: past the width check, too few bits left are the exhaustion answer. -/
theorem writeAccess_exhausted {w : WidthClass} {v : Motion} {t : Variant} {wdata : Data} {a : Int} {n : Nat}
    {s : State} (hkind : s.kind = .writer) (hcount : bitCount w a = some n)
    (hshort : s.bitLength < s.position + n) :
    writeAccess w v t wdata a s = .next (raise (exhausted t) s) := by
  simp only [writeAccess, hkind, hcount, if_pos hshort]

/-- R200, R141: a field that fits is written; its bytes exist, so there is no fault. -/
theorem writeAccess_fits {w : WidthClass} {v : Motion} {t : Variant} {wdata : Data} {a : Int} {n : Nat}
    {s : State} (hkind : s.kind = .writer) (hcount : bitCount w a = some n)
    (hfits : s.position + n ≤ s.bitLength) :
    writeAccess w v t wdata a s = .next (respond .ok 0
      (advanceBy v n (s.setBuffer (fieldWrite w s.buf s.position n (writeValue w wdata))))) := by
  have hheld := holdsField_of_available s n (bitCount_bounds hcount).1 (Nat.not_lt.2 hfits)
  simp only [writeAccess, hkind, hcount, if_neg (Nat.not_lt.2 hfits), if_pos hheld]

/-! ## The write-side commands against the statements' words -/

/-- R200: a successful write sets the buffer, the response and, where `V = 1`, `pos`; no other field. -/
theorem respond_advanceBy_setBuffer (v : Bool) (n : Nat) (m : Memory) (s : State) :
    respond .ok 0 (advanceBy (motionOf v) n (s.setBuffer m)) =
      { s with buf := m, pos := positionAfter s v n, response := some ⟨.ok, 0⟩ } :=
  respond_advanceBy_motionOf v n 0 (s.setBuffer m)

/-- R101: no write-side command runs on a Reader. -/
theorem writeSide_illegalOn_reader (v t : Bool) (w : WidthClass) (wdata : Data) (a : Int) :
    IllegalOn .reader (writeSide v t w wdata a) := by
  intro s hkind
  rw [exec_writeSide]
  exact writeAccess_reader hkind

/-- R271: a count outside `1 .. WMAX` is refused by every class that takes one. -/
theorem writeSide_rangeErrorOn_writer (v t : Bool) {w : WidthClass} (wdata : Data) {a : Int}
    (hcount : bitCount w a = none) : RangeErrorOn .writer (writeSide v t w wdata a) := by
  intro s hkind
  rw [exec_writeSide]
  exact writeAccess_outOfRange hkind hcount

/-- R200, R201 to R220: the effect on a Writer of every write-side command whose count passes the width check. -/
theorem writeSide_writesField (v t : Bool) {w : WidthClass} (wdata : Data) {a : Int} {n : Nat}
    (hcount : bitCount w a = some n) : WritesField v t n wdata (writeSide v t w wdata a) := by
  intro s hkind
  obtain ⟨hn, hmax⟩ := bitCount_bounds hcount
  rw [exec_writeSide]
  simp only [remaining]
  refine ⟨fun hshort => ?_, fun hfits hm => ?_⟩
  · rw [writeAccess_exhausted hkind hcount (by omega), exhausted_variantOf]
    rfl
  · have hwritten := fieldWrite_writeValue_written w s.position wdata hm hn hmax
    refine ⟨fieldWrite w s.buf s.position n (writeValue w wdata), ?_, fieldWrite_wf w s.position _ hm hn,
      hwritten, otherBytesKept_of_written hwritten⟩
    rw [writeAccess_fits hkind hcount (by omega), respond_advanceBy_setBuffer]

/-! ## The text of a write-side line -/

/-- R104, R105: a mnemonic and a value assemble to the OP byte and WDATA, with the full width in ARG where the class
takes a count. -/
theorem assembleText_writeSide {line : String} {v t : Bool} {w : WidthClass} {value : Nat} (hvalue : value < 2 ^ 64)
    (hline : parseLine line = some (.writeSide v t w value none)) :
    assembleText line =
      some ⟨opA true v t w, operandField (takesCount w) (classMax w), BitVec.ofNat 64 value⟩ := by
  have hassemble : assemble (.writeSide v t w value none) =
      some (writeSide v t w (BitVec.ofNat 64 value) (classMax w)) := by
    cases w <;> exact if_pos hvalue
  rw [assembleText, hline, Option.bind_some, hassemble, Option.map_some, encode_writeSide]

/-! ## The two rules, for every mode and class -/

/-- R201 to R204: the Bit class, whose count is 1 and whose ARG is ignored. -/
theorem writeSide_bitWriteRule {line : String} (v t : Bool)
    (hline : parseLine line = some (.writeSide v t .bit 1 none)) :
    BitWriteRule line (opA true v t .bit) v t (fun wdata => writeSide v t .bit wdata 1) :=
  ⟨assembleText_writeSide (by decide) hline,
    fun arg wdata => (decode_writeOp v t .bit arg wdata).trans (congrArg Except.ok (writeSide_congr rfl v t _ _ _)),
    fun wdata => ⟨writeSide_illegalOn_reader v t .bit wdata 1, writeSide_writesField v t wdata (bitCount_bit 1)⟩⟩

/-- R205 to R220: a class that takes its count from ARG. -/
theorem writeSide_writeRule {line : String} (v t : Bool) {w : WidthClass} (hw : w ≠ .bit)
    (hline : parseLine line = some (.writeSide v t w 1 none)) :
    WriteRule line (opA true v t w) (classMax w) v t (writeSide v t w) := by
  refine ⟨?_, fun arg wdata => ?_,
    fun wdata a => ⟨writeSide_illegalOn_reader v t w wdata a, fun hout => ?_, fun hlow hhigh => ?_⟩⟩
  · rw [assembleText_writeSide (by decide) hline, takesCount, decide_eq_true hw, operandField, if_pos rfl, argOf,
      BitVec.ofInt_natCast]
    rfl
  · rw [decode_writeOp, signedArg_eq_toInt]
  · exact writeSide_rangeErrorOn_writer v t wdata ((bitCount_eq_none hw).2 hout)
  · exact writeSide_writesField v t wdata ((bitCount_eq_some hw).2 ⟨by omega, by omega, by omega⟩)

/-- R95: the four modes of a class that takes a count, by their lines. -/
theorem writeSide_writeRules {w : WidthClass} (hw : w ≠ .bit) {tryPoke poke tryWrite write : String}
    (hlines : parseLine tryPoke = some (.writeSide false false w 1 none) ∧
      parseLine poke = some (.writeSide false true w 1 none) ∧
      parseLine tryWrite = some (.writeSide true false w 1 none) ∧
      parseLine write = some (.writeSide true true w 1 none)) :
    WriteRule tryPoke (opA true false false w) (classMax w) false false (writeSide false false w) ∧
      WriteRule poke (opA true false true w) (classMax w) false true (writeSide false true w) ∧
      WriteRule tryWrite (opA true true false w) (classMax w) true false (writeSide true false w) ∧
      WriteRule write (opA true true true w) (classMax w) true true (writeSide true true w) := by
  obtain ⟨htryPoke, hpoke, htryWrite, hwrite⟩ := hlines
  exact ⟨writeSide_writeRule false false hw htryPoke, writeSide_writeRule false true hw hpoke,
    writeSide_writeRule true false hw htryWrite, writeSide_writeRule true true hw hwrite⟩

/-! ## The obligations -/

/-- Settles O12: the Bit class in the four modes; what is left to compute is how each line is parsed. -/
theorem bitWriteCommands : Obligations.BitWriteCommands :=
  ⟨writeSide_bitWriteRule false false (by decide), writeSide_bitWriteRule false true (by decide),
    writeSide_bitWriteRule true false (by decide), writeSide_bitWriteRule true true (by decide)⟩

/-- Settles O13: the Byte class takes a count, and its four lines name it. -/
theorem byteWriteCommands : Obligations.ByteWriteCommands :=
  writeSide_writeRules (w := .byte) (by decide) (by decide)

/-- Settles O14: the Short class takes a count, and its four lines name it. -/
theorem shortWriteCommands : Obligations.ShortWriteCommands :=
  writeSide_writeRules (w := .short) (by decide) (by decide)

/-- Settles O15: the Int class takes a count, and its four lines name it. -/
theorem intWriteCommands : Obligations.IntWriteCommands :=
  writeSide_writeRules (w := .int) (by decide) (by decide)

/-- Settles O16: the Long class takes a count, and its four lines name it. -/
theorem longWriteCommands : Obligations.LongWriteCommands :=
  writeSide_writeRules (w := .long) (by decide) (by decide)

end Sys2Proof.Machine
end

section
/-! SUPPORT. The commands that write `pos` and the five that read a property (43_control.md). The property side is one
family by selector, and of each shared operation one lemma says when it changes `pos`, so that every writer of R248 is
found by its OP byte. -/

namespace Sys2Proof.Machine

open Sys2Proof.Claims

/-! ## The checked move of `pos`, by range -/

theorem moveTo_outOfRange {p : Int} {s : State} (h : p < 0 ∨ (s.bitLength : Int) < p) :
    moveTo p s = .next (raise .errRange s) :=
  if_pos h

theorem moveTo_inRange {p : Int} {s : State} (hlow : 0 ≤ p) (hhigh : p ≤ s.bitLength) :
    moveTo p s = .next (respond .ok 0 (s.setPosition p.toNat)) :=
  if_neg (by omega)

/-- R34: a target that passes the check is held by `pos` without a wrap. -/
theorem setPosition_toNat_position {p : Int} {s : State} (hlow : 0 ≤ p) (hhigh : p ≤ s.bitLength) :
    ((s.setPosition p.toNat).position : Int) = p := by
  rw [setPosition_position p.toNat s (by omega), Int.toNat_of_nonneg hlow]

/-- R240, R243, R245: a command that is a checked move of `pos` follows the rule of its target. -/
theorem movesTo_of_exec_eq_moveTo {p : Int} {i : Instr} (hexec : ∀ s, exec i s = moveTo p s) : MovesTo p i := by
  refine fun s => ⟨fun hout => (hexec s).trans (moveTo_outOfRange hout), fun hlow hhigh => ?_⟩
  have hpos : BitVec.ofNat 31 p.toNat = BitVec.ofInt 31 p := by
    rw [← BitVec.ofInt_natCast, Int.toNat_of_nonneg hlow]
  rw [hexec, moveTo_inRange hlow hhigh, ← hpos]
  rfl

/-! ## The property side, by selector -/

/-- R97: a property-side command takes the signed ARG and ignores WDATA. -/
theorem decode_propertyOp_toInt (sel : BitVec 3) (arg : Arg) (wdata : Data) :
    decode ⟨opP sel, arg, wdata⟩ = .ok (propertySide sel arg.toInt) := by
  rw [decode_propertyOp, signedArg_eq_toInt]

/-- R96: a get command has the same meaning for every ARG. -/
theorem decode_getOp {sel : BitVec 3} (hsel : takesPosition sel = false) (arg : Arg) (wdata : Data) :
    decode ⟨opP sel, arg, wdata⟩ = .ok (propertySide sel 0) := by
  rw [decode_propertyOp, propertySide_congr hsel]

/-- R104: the text of a property-side command assembles to its OP byte, with the operand in ARG where it takes one. -/
theorem assembleText_propertySide {text : String} {line : AsmLine} {sel : BitVec 3} {a : Int}
    (htext : parseLine text = some line) (hline : assemble line = some (propertySide sel a)) :
    assembleText text = some ⟨opP sel, operandField (takesPosition sel) a, 0⟩ := by
  rw [assembleText, htext, Option.bind_some, hline, Option.map_some, encode_propertySide]

/-- R240 to R247: New and SetBitPosition move `pos` to the operand, SetBytePosition to eight times the operand, and
the other five commands answer a property. -/
theorem exec_propertySide_bySelector (sel : BitVec 3) (a : Int) (s : State) :
    ((sel = 0 ∨ sel = 3) ∧ exec (propertySide sel a) s = moveTo a s) ∨
      (sel = 5 ∧ exec (propertySide sel a) s = moveTo (8 * a) s) ∨
      ∃ value, exec (propertySide sel a) s = answer value s := by
  fin_cases sel
  · exact .inl ⟨.inl rfl, rfl⟩
  · exact .inr (.inr ⟨s.bitLength, rfl⟩)
  · exact .inr (.inr ⟨s.position, rfl⟩)
  · exact .inl ⟨.inr rfl, rfl⟩
  · exact .inr (.inr ⟨s.bytePosition, rfl⟩)
  · exact .inr (.inl ⟨rfl, rfl⟩)
  · exact .inr (.inr ⟨s.bitOffset, rfl⟩)
  · exact .inr (.inr ⟨s.remainingBits, rfl⟩)

/-! ## When a shared operation changes `pos` -/

/-- The response has status OK. -/
def AnsweredOk (t : State) : Prop := ∃ rdata, t.response = some ⟨.ok, rdata⟩

theorem answeredOk_respond (rdata : Data) (s : State) : AnsweredOk (respond .ok rdata s) :=
  ⟨rdata, respond_response .ok rdata s⟩

/-- R240, R243, R245: a checked move that changes `pos` sets it to the target. -/
theorem moveTo_position {p : Int} {s t : State} (h : moveTo p s = .next t) (hpos : t.position ≠ s.position) :
    AnsweredOk t ∧ (t.position : Int) = p := by
  rcases moveTo_cases p s with ⟨-, heq⟩ | ⟨hlow, hhigh, heq⟩ <;> cases heq.symm.trans h
  · exact absurd rfl hpos
  · exact ⟨answeredOk_respond 0 _, setPosition_toNat_position hlow hhigh⟩

/-- R39: a get command never changes `pos`. -/
theorem answer_position {value : Nat} {s t : State} (h : answer value s = .next t) : t.position = s.position := by
  cases (answer_eq value s).symm.trans h
  rfl

/-- R160, R200: an access of class `w` with the argument `a` succeeded and moved `pos` by its count. -/
def AdvancedByCount (w : WidthClass) (v : Motion) (a : Int) (s t : State) : Prop :=
  AnsweredOk t ∧ v = .advance ∧ ∃ n, bitCount w a = some n ∧ t.position = s.position + n

theorem advanceBy_position_of_ne {v : Motion} {n : Nat} {s : State} (hfits : s.position + n ≤ s.bitLength)
    (hpos : (advanceBy v n s).position ≠ s.position) :
    v = .advance ∧ (advanceBy v n s).position = s.position + n := by
  cases v with
  | stay => exact absurd rfl hpos
  | advance => exact ⟨rfl, setPosition_position _ s hfits⟩

theorem readAccess_position {w : WidthClass} {v : Motion} {t : Variant} {a : Int} {s s' : State}
    (h : readAccess w v t a s = .next s') (hpos : s'.position ≠ s.position) : AdvancedByCount w v a s s' := by
  rcases readAccess_cases w v t a s with
    ⟨-, heq⟩ | ⟨-, -, heq⟩ | ⟨n, -, -, -, heq⟩ | ⟨n, -, hcount, hfits, heq⟩ <;> cases heq.symm.trans h
  case inr.inr.inr =>
    obtain ⟨hv, hmoved⟩ := advanceBy_position_of_ne hfits hpos
    exact ⟨answeredOk_respond _ _, hv, n, hcount, hmoved⟩
  all_goals exact absurd rfl hpos

theorem writeAccess_position {w : WidthClass} {v : Motion} {t : Variant} {value : Data} {a : Int} {s s' : State}
    (h : writeAccess w v t value a s = .next s') (hpos : s'.position ≠ s.position) :
    AdvancedByCount w v a s s' := by
  rcases writeAccess_cases w v t value a s with
    ⟨-, heq⟩ | ⟨-, -, heq⟩ | ⟨n, -, -, -, heq⟩ | ⟨n, -, hcount, hfits, heq⟩ <;> cases heq.symm.trans h
  case inr.inr.inr =>
    obtain ⟨hv, hmoved⟩ := advanceBy_position_of_ne
      (s := s.setBuffer (fieldWrite w s.buf s.position n (writeValue w value))) hfits hpos
    exact ⟨answeredOk_respond _ _, hv, n, hcount, hmoved⟩
  all_goals exact absurd rfl hpos

/-! ## The writers of `pos`, by the request -/

/-- R248: the request `r` was answered OK, and it is one of the four commands that write `pos`, with its target. -/
def WritesPosition (r : Request) (s t : State) : Prop :=
  AnsweredOk t ∧
    ((r.op = 0x80 ∧ (t.position : Int) = r.arg.toInt) ∨
      (r.op = 0x83 ∧ (t.position : Int) = r.arg.toInt) ∨
      (r.op = 0x85 ∧ (t.position : Int) = 8 * r.arg.toInt) ∨
      (r.op.getLsbD 7 = false ∧ r.op.getLsbD 5 = true ∧ (t.position : Int) = s.position + countOf r))

/-- R96: the OP byte of a format-P request, by its selector. -/
theorem op_eq_opP {op : Byte} {sel : BitVec 3} (h7 : op.getLsbD 7 = true) (hreserved : op.extractLsb 6 3 = 0)
    (hsel : op.extractLsb 2 0 = sel) : op = opP sel :=
  hsel ▸ (opP_of_fields h7 hreserved).symm

/-- R97: the count that an access takes from its request is the statements' count. -/
theorem countOf_eq_of_bitCount {r : Request} {w : WidthClass} {n : Nat} (hw : r.op.extractLsb 2 0 = fieldOfWidth w)
    (hcount : bitCount w (signedArg r.arg) = some n) : countOf r = n := by
  rw [countOf, hw, ← signedArg_eq_toInt]
  cases w
  case bit => exact congrArg Nat.cast (Option.some.inj hcount)
  all_goals exact ((bitCount_eq_some (by decide)).1 hcount).1

theorem eq_true_of_motionOf_eq_advance {v : Bool} (h : motionOf v = .advance) : v = true := by
  cases v with
  | false => cases h
  | true => rfl

/-- R93: an access that moved `pos` has `V = 1`, and it moved by the request's count. -/
theorem AdvancedByCount.writesPosition {r : Request} {w : WidthClass} {s t : State}
    (h : AdvancedByCount w (motionOf (r.op.getLsbD 5)) (signedArg r.arg) s t) (h7 : r.op.getLsbD 7 = false)
    (hw : r.op.extractLsb 2 0 = fieldOfWidth w) : WritesPosition r s t := by
  obtain ⟨hok, hv, n, hcount, hmoved⟩ := h
  have htarget : (t.position : Int) = s.position + countOf r := by
    rw [countOf_eq_of_bitCount hw hcount, hmoved, Nat.cast_add]
  exact ⟨hok, .inr (.inr (.inr ⟨h7, eq_true_of_motionOf_eq_advance hv, htarget⟩))⟩

/-- R248, for format P: a property-side command that changes `pos` is one of the three with a target. -/
theorem exec_propertySide_writesPosition {r : Request} {s t : State} (h7 : r.op.getLsbD 7 = true)
    (hreserved : r.op.extractLsb 6 3 = 0)
    (h : exec (propertySide (r.op.extractLsb 2 0) (signedArg r.arg)) s = .next t)
    (hpos : t.position ≠ s.position) : WritesPosition r s t := by
  rw [signedArg_eq_toInt] at h
  rcases exec_propertySide_bySelector (r.op.extractLsb 2 0) r.arg.toInt s with
    ⟨hsel | hsel, heq⟩ | ⟨hsel, heq⟩ | ⟨value, heq⟩
  · obtain ⟨hok, htarget⟩ := moveTo_position (heq.symm.trans h) hpos
    exact ⟨hok, .inl ⟨op_eq_opP h7 hreserved hsel, htarget⟩⟩
  · obtain ⟨hok, htarget⟩ := moveTo_position (heq.symm.trans h) hpos
    exact ⟨hok, .inr (.inl ⟨op_eq_opP h7 hreserved hsel, htarget⟩)⟩
  · obtain ⟨hok, htarget⟩ := moveTo_position (heq.symm.trans h) hpos
    exact ⟨hok, .inr (.inr (.inl ⟨op_eq_opP h7 hreserved hsel, htarget⟩))⟩
  · exact absurd (answer_position (heq.symm.trans h)) hpos

/-- R248: a command that changes `pos` is a writer of `pos`, whatever its format and side. -/
theorem exec_writesPosition {r : Request} {i : Instr} {s t : State} (hd : decode r = .ok i)
    (h : exec i s = .next t) (hpos : t.position ≠ s.position) : WritesPosition r s t := by
  rcases decode_cases r with
    ⟨h7, hreserved, heq⟩ | ⟨⟨e, heq⟩, -⟩ | ⟨w, h7, -, -, hw, heq⟩ | ⟨w, h7, -, -, hw, heq⟩ <;>
    cases heq.symm.trans hd
  · exact exec_propertySide_writesPosition h7 hreserved h hpos
  · rw [exec_readSide] at h
    exact (readAccess_position h hpos).writesPosition h7 hw
  · rw [exec_writeSide] at h
    exact (writeAccess_position h hpos).writesPosition h7 hw

/-- R248, R274: an illegal or a refused command does not change `pos` either. -/
theorem step_command_writesPosition {s t : State} {r : Request} {es : List HostEvent}
    (hhost : s.host = .command r :: es) (h : step s = .next t) (hpos : t.position ≠ s.position) :
    WritesPosition r s t := by
  rw [step_command hhost] at h
  split at h
  · cases hd : decode r with
    | ok i =>
      rw [hd] at h
      exact exec_writesPosition (s := dropEvent s) hd h hpos
    | error e =>
      rw [hd] at h
      cases h
      exact absurd rfl hpos
  · cases h

/-! ## The obligations -/

/-- Settles O27: of the events of the host, reset sets `pos` to 0, a command writes it as its request says, and the
others keep it. -/
theorem positionIsWrittenOnlyByListedEvents : Obligations.PositionIsWrittenOnlyByListedEvents := by
  intro s t hlend h hpos
  cases step_effect h with
  | command r es hhost => exact .inr ⟨r, es, hhost, step_command_writesPosition hhost h hpos⟩
  | reset es hhost => exact .inl ⟨es, hhost, rfl⟩
  | lend bytes es hhost => exact absurd hhost (hlend bytes es)
  | idle => exact absurd rfl hpos
  | withdraw => exact absurd rfl hpos
  | strayAccess => exact absurd rfl hpos

/-- Settles O17: New is selector 0, and a checked move of `pos` to its operand. -/
theorem newConstructsAtOffset : Obligations.NewConstructsAtOffset :=
  ⟨decode_propertyOp_toInt 0,
    assembleText_propertySide (line := .new (some 3)) (sel := 0) (a := 3) (by decide) rfl,
    fun _ => movesTo_of_exec_eq_moveTo fun _ => rfl,
    assembleText_propertySide (line := .new none) (sel := 0) (a := 0) (by decide) rfl⟩

/-- Settles O18: SetBitPosition is selector 3, and a checked move of `pos` to its operand. -/
theorem setBitPositionMoves : Obligations.SetBitPositionMoves :=
  ⟨decode_propertyOp_toInt 3,
    assembleText_propertySide (line := .setBitPosition 3) (sel := 3) (a := 3) (by decide) rfl,
    fun _ => movesTo_of_exec_eq_moveTo fun _ => rfl⟩

/-- Settles O19: SetBytePosition is selector 5, and a checked move of `pos` to the exact product, which leaves the
operand as quotient and 0 as remainder. -/
theorem setBytePositionMoves : Obligations.SetBytePositionMoves := by
  refine ⟨decode_propertyOp_toInt 5,
    assembleText_propertySide (line := .setBytePosition 3) (sel := 5) (a := 3) (by decide) rfl,
    fun _ => movesTo_of_exec_eq_moveTo fun _ => rfl, fun a s hlow hhigh => ?_⟩
  have hpos := setPosition_toNat_position hlow hhigh
  refine ⟨_, moveTo_inRange hlow hhigh, ?_, ?_⟩ <;>
    simp only [State.bitOffset, State.bytePosition, respond_position] <;> omega

/-- Settles O20: the five other selectors answer their property; where `pos ≤ BL`, the natural subtraction of
RemainingBits is the integer one. -/
theorem propertyReadsAnswer : Obligations.PropertyReadsAnswer := by
  refine ⟨fun arg wdata => ?_, ?_, fun s => ⟨answer_eq _ s, ?_, answer_eq _ s, answer_eq _ s, fun hle => ?_⟩⟩
  · exact ⟨decode_getOp (sel := 1) rfl arg wdata, decode_getOp (sel := 2) rfl arg wdata,
      decode_getOp (sel := 4) rfl arg wdata, decode_getOp (sel := 6) rfl arg wdata,
      decode_getOp (sel := 7) rfl arg wdata⟩
  · exact ⟨assembleText_propertySide (line := .getBitLength) (sel := 1) (a := 0) (by decide) rfl,
      assembleText_propertySide (line := .getBitPosition) (sel := 2) (a := 0) (by decide) rfl,
      assembleText_propertySide (line := .getBytePosition) (sel := 4) (a := 0) (by decide) rfl,
      assembleText_propertySide (line := .getBitOffset) (sel := 6) (a := 0) (by decide) rfl,
      assembleText_propertySide (line := .getRemainingBits) (sel := 7) (a := 0) (by decide) rfl⟩
  · rw [← BitVec.ofNat_toNat]
    exact answer_eq s.position s
  · rw [← remainingBits_eq_remaining hle, BitVec.ofInt_natCast]
    exact answer_eq s.remainingBits s

end Sys2Proof.Machine
end

section
/-! SUPPORT. The status of a response (60_exceptions.md). `Checked` is R277 as one relation of the unit, the request and
the status: the first of three checks that fails decides. Every issued command answers with the status it gives, and it
gives one status only, so the causes and the raisers of each code are read off its four cases. The answer does not
depend on the events to come or on the response before (R276): `IgnoresInterface`, of each shared operation and then of
every command. -/

namespace Sys2Proof.Machine

open Sys2Proof.Claims

/-! ## The checks of R277 -/

/-- R277, step 1: the OP value is illegal (R100), or of the other side (R101). -/
def IllegalHere (s : State) (r : Request) : Prop := illegalOp r.op = true ∨ wrongSide s.kind r.op = true

/-- R277, step 2: the position of a format-P request or the count of a format-A request is out of range. -/
def OutOfRange (s : State) (r : Request) : Prop :=
  positionOutOfRange s r ∨ (r.op.getLsbD 7 = false ∧ ¬ countInRange r)

/-- R277, step 3: a format-A request asks for more bits than are left. -/
def TooFewBits (s : State) (r : Request) : Prop := r.op.getLsbD 7 = false ∧ remaining s < countOf r

/-- R277: the status that the first failing check gives the request `r` on the unit `s`. -/
inductive Checked (s : State) (r : Request) : Status → Prop where
  | illegal (hillegal : IllegalHere s r) : Checked s r .errIllegal
  | range (hlegal : ¬ IllegalHere s r) (hrange : OutOfRange s r) : Checked s r .errRange
  | short (hlegal : ¬ IllegalHere s r) (hrange : ¬ OutOfRange s r) (hshort : TooFewBits s r) :
      Checked s r (exhaustion (r.op.getLsbD 4))
  | ok (hlegal : ¬ IllegalHere s r) (hrange : ¬ OutOfRange s r) (hfits : ¬ TooFewBits s r) : Checked s r .ok

/-- R277: the checks give one status. -/
theorem Checked.unique {s : State} {r : Request} {a b : Status} (ha : Checked s r a) (hb : Checked s r b) :
    a = b := by
  cases ha with
  | illegal => cases hb with
    | illegal => rfl
    | _ => contradiction
  | range => cases hb with
    | range => rfl
    | _ => contradiction
  | short => cases hb with
    | short => rfl
    | _ => contradiction
  | ok => cases hb with
    | ok => rfl
    | _ => contradiction

/-- The checks do not look at the host's events. -/
theorem Checked.of_dropEvent {s : State} {r : Request} {status : Status} (h : Checked (dropEvent s) r status) :
    Checked s r status := by
  cases h with
  | illegal hillegal => exact .illegal hillegal
  | range hlegal hrange => exact .range hlegal hrange
  | short hlegal hrange hshort => exact .short hlegal hrange hshort
  | ok hlegal hrange hfits => exact .ok hlegal hrange hfits

/-! ## The words of the checks -/

theorem not_illegalHere {s : State} {r : Request} :
    ¬ IllegalHere s r ↔ illegalOp r.op = false ∧ wrongSide s.kind r.op = false := by
  simp only [IllegalHere, not_or, Bool.not_eq_true]

/-- R93, R271: only format P writes a position from its operand. -/
theorem formatP_of_positionOutOfRange {s : State} {r : Request} (h : positionOutOfRange s r) :
    (r.op = 0x80 ∨ r.op = 0x83 ∨ r.op = 0x85) ∧ r.op.getLsbD 7 = true := by
  rcases h with ⟨hop | hop, -⟩ | ⟨hop, -⟩ <;> simp [hop]

theorem outOfRange_iff_position {s : State} {r : Request} (h7 : r.op.getLsbD 7 = true) :
    OutOfRange s r ↔ positionOutOfRange s r :=
  or_iff_left fun ⟨h7', _⟩ => by cases h7.symm.trans h7'

theorem outOfRange_iff_count {s : State} {r : Request} (h7 : r.op.getLsbD 7 = false) :
    OutOfRange s r ↔ ¬ countInRange r := by
  have hformat : ¬ positionOutOfRange s r := by
    intro h
    obtain ⟨-, h7'⟩ := formatP_of_positionOutOfRange h
    cases h7.symm.trans h7'
  rw [OutOfRange, or_iff_right hformat, and_iff_right h7]

/-- R97, R271: the Bit class takes no count, so its width check never fails. -/
theorem not_countInRange {r : Request} :
    ¬ countInRange r ↔ r.op.extractLsb 2 0 ≠ 0 ∧
      (r.arg.toInt < 1 ∨ maxOfField (r.op.extractLsb 2 0) < r.arg.toInt) := by
  by_cases hbit : r.op.extractLsb 2 0 = 0
  · simp [countInRange, countOf, maxOfField, hbit]
  · rw [countInRange, countOf, if_neg hbit, not_and_or, Int.not_le, Int.not_le, and_iff_right hbit]

theorem not_tooFewBits_of_formatP {s : State} {r : Request} (h7 : r.op.getLsbD 7 = true) : ¬ TooFewBits s r :=
  fun ⟨h7', _⟩ => by cases h7.symm.trans h7'

/-! ## The status codes that the checks give -/

theorem exhaustion_ne_ok (t : Bool) : exhaustion t ≠ .ok := by cases t <;> decide

theorem exhaustion_eq_fail {t : Bool} : exhaustion t = .fail ↔ t = false := by cases t <;> decide

theorem exhaustion_eq_errEos {t : Bool} : exhaustion t = .errEos ↔ t = true := by cases t <;> decide

theorem exhaustion_ne_errRange (t : Bool) : exhaustion t ≠ .errRange := by cases t <;> decide

theorem exhaustion_ne_errIllegal (t : Bool) : exhaustion t ≠ .errIllegal := by cases t <;> decide

/-- R100, R101, R270: ERR_ILLEGAL has no other cause than the first check. -/
theorem Checked.errIllegal_iff {s : State} {r : Request} {status : Status} (h : Checked s r status) :
    status = .errIllegal ↔ IllegalHere s r := by
  refine ⟨fun hstatus => ?_, fun hillegal => h.unique (.illegal hillegal)⟩
  cases h with
  | illegal hillegal => exact hillegal
  | short => exact absurd hstatus (exhaustion_ne_errIllegal _)
  | _ => cases hstatus

/-- R271, R277: ERR_RANGE has no other cause than the second check. -/
theorem Checked.errRange_iff {s : State} {r : Request} {status : Status} (h : Checked s r status) :
    status = .errRange ↔ ¬ IllegalHere s r ∧ OutOfRange s r := by
  refine ⟨fun hstatus => ?_, fun ⟨hlegal, hrange⟩ => h.unique (.range hlegal hrange)⟩
  cases h with
  | range hlegal hrange => exact ⟨hlegal, hrange⟩
  | short => exact absurd hstatus (exhaustion_ne_errRange _)
  | _ => cases hstatus

/-- R272, R277: FAIL and ERR_EOS have no other cause than the third check, and `T` chooses between them. -/
theorem Checked.tooFewBits {s : State} {r : Request} {status : Status} (h : Checked s r status)
    (hstatus : status = .fail ∨ status = .errEos) :
    ¬ IllegalHere s r ∧ ¬ OutOfRange s r ∧ TooFewBits s r ∧ status = exhaustion (r.op.getLsbD 4) := by
  cases h with
  | short hlegal hrange hshort => exact ⟨hlegal, hrange, hshort, rfl⟩
  | _ => rcases hstatus with hstatus | hstatus <;> cases hstatus

/-! ## The width check of an access is the count check of its request -/

theorem maxOfField_fieldOfWidth (w : WidthClass) : maxOfField (fieldOfWidth w) = classMax w := by
  cases w <;> decide

theorem fieldOfWidth_ne_zero {w : WidthClass} (hw : w ≠ .bit) : fieldOfWidth w ≠ 0 := by
  cases w
  case bit => exact absurd rfl hw
  all_goals decide

theorem countInRange_of_bitCount {r : Request} {w : WidthClass} {n : Nat} (hw : r.op.extractLsb 2 0 = fieldOfWidth w)
    (hcount : bitCount w (signedArg r.arg) = some n) : countInRange r := by
  obtain ⟨hn, hmax⟩ := bitCount_bounds hcount
  rw [countInRange, countOf_eq_of_bitCount hw hcount, hw, maxOfField_fieldOfWidth]
  exact ⟨by omega, by omega⟩

theorem not_countInRange_of_bitCount {r : Request} {w : WidthClass} (hw : r.op.extractLsb 2 0 = fieldOfWidth w)
    (hcount : bitCount w (signedArg r.arg) = none) : ¬ countInRange r := by
  have hbit : w ≠ .bit := fun h => by cases h; cases hcount
  rw [not_countInRange, hw, maxOfField_fieldOfWidth, ← signedArg_eq_toInt]
  exact ⟨fieldOfWidth_ne_zero hbit, (bitCount_eq_none hbit).1 hcount⟩

/-! ## The status of an access, by its count -/

section Count

variable {s : State} {r : Request} {w : WidthClass} {n : Nat} (hlegal : ¬ IllegalHere s r)
  (h7 : r.op.getLsbD 7 = false) (hw : r.op.extractLsb 2 0 = fieldOfWidth w)

include hlegal h7 hw

theorem checked_of_count_outOfRange (hcount : bitCount w (signedArg r.arg) = none) : Checked s r .errRange :=
  .range hlegal ((outOfRange_iff_count h7).2 (not_countInRange_of_bitCount hw hcount))

theorem checked_of_count_short (hcount : bitCount w (signedArg r.arg) = some n)
    (hshort : s.bitLength < s.position + n) : Checked s r (exhausted (variantOf (r.op.getLsbD 4))) := by
  rw [exhausted_variantOf]
  refine .short hlegal ?_ ⟨h7, ?_⟩
  · simpa only [outOfRange_iff_count h7, not_not] using countInRange_of_bitCount hw hcount
  · rw [countOf_eq_of_bitCount hw hcount, remaining]
    omega

theorem checked_of_count_fits (hcount : bitCount w (signedArg r.arg) = some n)
    (hfits : s.position + n ≤ s.bitLength) : Checked s r .ok := by
  refine .ok hlegal ?_ fun ⟨_, hshort⟩ => ?_
  · simpa only [outOfRange_iff_count h7, not_not] using countInRange_of_bitCount hw hcount
  · rw [countOf_eq_of_bitCount hw hcount, remaining] at hshort
    omega

end Count

/-! ## Every command answers with the status of its checks -/

/-- R277: the outcome is a response whose status is the one that the checks of `r` on `s` give. -/
def AnswersChecked (s : State) (r : Request) (o : Host.Outcome State Fault Refusal) : Prop :=
  ∃ t status rdata, o = .next t ∧ t.response = some ⟨status, rdata⟩ ∧ Checked s r status

theorem Checked.answers {s : State} {r : Request} {status : Status} (h : Checked s r status) (rdata : Data)
    (t : State) : AnswersChecked s r (.next (respond status rdata t)) :=
  ⟨_, status, rdata, rfl, respond_response status rdata t, h⟩

section Access

variable {s : State} {r : Request} {w : WidthClass}

/-- R93, R100, R101: a decoded read-side request is illegal on a Writer only. -/
theorem illegalHere_readSide (h7 : r.op.getLsbD 7 = false) (h3 : r.op.getLsbD 3 = false)
    (h6 : r.op.getLsbD 6 = false) (hw : r.op.extractLsb 2 0 = fieldOfWidth w) :
    IllegalHere s r ↔ s.kind = .writer := by
  cases hkind : s.kind <;>
    simp only [IllegalHere, illegalOp_of_formatA h7 h3 hw, wrongSide, readSideOp, writeSideOp, h7, h6, hkind] <;>
    decide

/-- R93, R100, R101: a decoded write-side request is illegal on a Reader only. -/
theorem illegalHere_writeSide (h7 : r.op.getLsbD 7 = false) (h3 : r.op.getLsbD 3 = false)
    (h6 : r.op.getLsbD 6 = true) (hw : r.op.extractLsb 2 0 = fieldOfWidth w) :
    IllegalHere s r ↔ s.kind = .reader := by
  cases hkind : s.kind <;>
    simp only [IllegalHere, illegalOp_of_formatA h7 h3 hw, wrongSide, readSideOp, writeSideOp, h7, h6, hkind] <;>
    decide

/-- R160, R277: a read-side access answers with the status of its request's checks. -/
theorem readAccess_answersChecked (v : Motion) (h7 : r.op.getLsbD 7 = false)
    (hw : r.op.extractLsb 2 0 = fieldOfWidth w) (hside : IllegalHere s r ↔ s.kind = .writer) :
    AnswersChecked s r (readAccess w v (variantOf (r.op.getLsbD 4)) (signedArg r.arg) s) := by
  have hlegal (hkind : s.kind = .reader) : ¬ IllegalHere s r :=
    fun h => by cases hkind.symm.trans (hside.1 h)
  rcases readAccess_cases w v (variantOf (r.op.getLsbD 4)) (signedArg r.arg) s with
    ⟨hkind, heq⟩ | ⟨hkind, hcount, heq⟩ | ⟨n, hkind, hcount, hshort, heq⟩ | ⟨n, hkind, hcount, hfits, heq⟩ <;>
    rw [heq]
  · exact (Checked.illegal (hside.2 hkind)).answers _ _
  · exact (checked_of_count_outOfRange (hlegal hkind) h7 hw hcount).answers _ _
  · exact (checked_of_count_short (hlegal hkind) h7 hw hcount hshort).answers _ _
  · exact (checked_of_count_fits (hlegal hkind) h7 hw hcount hfits).answers _ _

/-- R200, R277: a write-side access answers with the status of its request's checks. -/
theorem writeAccess_answersChecked (v : Motion) (value : Data) (h7 : r.op.getLsbD 7 = false)
    (hw : r.op.extractLsb 2 0 = fieldOfWidth w) (hside : IllegalHere s r ↔ s.kind = .reader) :
    AnswersChecked s r (writeAccess w v (variantOf (r.op.getLsbD 4)) value (signedArg r.arg) s) := by
  have hlegal (hkind : s.kind = .writer) : ¬ IllegalHere s r :=
    fun h => by cases hkind.symm.trans (hside.1 h)
  rcases writeAccess_cases w v (variantOf (r.op.getLsbD 4)) value (signedArg r.arg) s with
    ⟨hkind, heq⟩ | ⟨hkind, hcount, heq⟩ | ⟨n, hkind, hcount, hshort, heq⟩ | ⟨n, hkind, hcount, hfits, heq⟩ <;>
    rw [heq]
  · exact (Checked.illegal (hside.2 hkind)).answers _ _
  · exact (checked_of_count_outOfRange (hlegal hkind) h7 hw hcount).answers _ _
  · exact (checked_of_count_short (hlegal hkind) h7 hw hcount hshort).answers _ _
  · exact (checked_of_count_fits (hlegal hkind) h7 hw hcount hfits).answers _ _

/-- R96, R101: a decoded format-P request is legal on both kinds. -/
theorem not_illegalHere_propertySide (h7 : r.op.getLsbD 7 = true) (hreserved : r.op.extractLsb 6 3 = 0) :
    ¬ IllegalHere s r := by
  rw [not_illegalHere]
  constructor
  · simp only [illegalOp, h7, hreserved, Bool.not_true, Bool.false_and, Bool.or_self, ne_eq, not_true_eq_false,
      decide_false, Bool.and_false]
  · cases s.kind <;> simp only [wrongSide, readSideOp, writeSideOp, h7, Bool.not_true, Bool.false_and]

/-- R240, R243, R245: the position that a property-side command with the operand `a` would write. -/
def targetOf (sel : BitVec 3) (a : Int) : Int := if sel = 5 then 8 * a else a

/-- R96: the OP bytes of New, SetBitPosition and SetBytePosition, by selector. -/
theorem opP_writesPosition (sel : BitVec 3) :
    (opP sel = 0x80 ∨ opP sel = 0x83 ↔ sel = 0 ∨ sel = 3) ∧ (opP sel = 0x85 ↔ sel = 5) := by
  revert sel
  decide

/-- R271: the range check of format P is about the target of the three commands that have one. -/
theorem positionOutOfRange_opP {sel : BitVec 3} (hop : r.op = opP sel) :
    positionOutOfRange s r ↔ takesPosition sel = true ∧
      (targetOf sel r.arg.toInt < 0 ∨ (s.bitLength : Int) < targetOf sel r.arg.toInt) := by
  obtain ⟨hbit, hbyte⟩ := opP_writesPosition sel
  rw [positionOutOfRange, hop, hbit, hbyte]
  by_cases h5 : sel = 5
  · subst h5
    simp [takesPosition, targetOf]
  · simp only [takesPosition, targetOf, Bool.or_eq_true, decide_eq_true_eq, h5, if_false, or_false, false_and]

/-- R240 to R247: a property-side command with a target is a checked move to it, and the others answer. -/
theorem exec_propertySide_byTarget (sel : BitVec 3) (a : Int) (s : State) :
    (takesPosition sel = true ∧ exec (propertySide sel a) s = moveTo (targetOf sel a) s) ∨
      (takesPosition sel = false ∧ ∃ value, exec (propertySide sel a) s = answer value s) := by
  fin_cases sel
  · exact .inl ⟨rfl, rfl⟩
  · exact .inr ⟨rfl, s.bitLength, rfl⟩
  · exact .inr ⟨rfl, s.position, rfl⟩
  · exact .inl ⟨rfl, rfl⟩
  · exact .inr ⟨rfl, s.bytePosition, rfl⟩
  · exact .inl ⟨rfl, rfl⟩
  · exact .inr ⟨rfl, s.bitOffset, rfl⟩
  · exact .inr ⟨rfl, s.remainingBits, rfl⟩

/-- R243, R277: a format-P command answers with the status of its request's checks. -/
theorem exec_propertySide_answersChecked (s : State) (h7 : r.op.getLsbD 7 = true)
    (hreserved : r.op.extractLsb 6 3 = 0) :
    AnswersChecked s r (exec (propertySide (r.op.extractLsb 2 0) (signedArg r.arg)) s) := by
  have hlegal := not_illegalHere_propertySide (s := s) h7 hreserved
  have hfits := not_tooFewBits_of_formatP (s := s) h7
  have hrange := (outOfRange_iff_position h7).trans
    (positionOutOfRange_opP (s := s) (opP_of_fields h7 hreserved).symm)
  rw [signedArg_eq_toInt]
  rcases exec_propertySide_byTarget (r.op.extractLsb 2 0) r.arg.toInt s with
    ⟨htakes, hexec⟩ | ⟨htakes, value, hexec⟩ <;> rw [hexec]
  · rcases moveTo_cases (targetOf (r.op.extractLsb 2 0) r.arg.toInt) s with
      ⟨hout, heq⟩ | ⟨hlow, hhigh, heq⟩ <;> rw [heq]
    · exact (Checked.range hlegal (hrange.2 ⟨htakes, hout⟩)).answers _ _
    · refine (Checked.ok hlegal (fun h => ?_) hfits).answers _ _
      obtain ⟨-, hout⟩ := hrange.1 h
      omega
  · refine (Checked.ok hlegal (fun h => ?_) hfits).answers _ _
    obtain ⟨htakes', -⟩ := hrange.1 h
    cases htakes.symm.trans htakes'

end Access

/-- R277: every decoded command answers with the status of its request's checks. -/
theorem exec_answersChecked {r : Request} {i : Instr} (hd : decode r = .ok i) (s : State) :
    AnswersChecked s r (exec i s) := by
  rcases decode_cases r with
    ⟨h7, hreserved, heq⟩ | ⟨⟨e, heq⟩, -⟩ | ⟨w, h7, h3, h6, hw, heq⟩ | ⟨w, h7, h3, h6, hw, heq⟩ <;>
    cases heq.symm.trans hd
  · exact exec_propertySide_answersChecked s h7 hreserved
  · rw [exec_readSide]
    exact readAccess_answersChecked _ h7 hw (illegalHere_readSide h7 h3 h6 hw)
  · rw [exec_writeSide]
    exact writeAccess_answersChecked _ _ h7 hw (illegalHere_writeSide h7 h3 h6 hw)

/-! ## A step at a command -/

section Step

variable {s t : State} {r : Request} {rest : List HostEvent} {status : Status} {rdata : Data}

/-- R303: a step that gives a next state at a command is one of a unit that holds its buffer. -/
theorem issued_of_step (hhost : s.host = .command r :: rest) (h : step s = .next t) : Issued s r rest := by
  refine ⟨hhost, ?_⟩
  rw [step_command hhost] at h
  split at h
  · assumption
  · cases h

theorem step_of_decode_ok {i : Instr} (hissued : Issued s r rest) (hd : decode r = .ok i) :
    step s = exec i (dropEvent s) := by
  obtain ⟨hhost, hlent⟩ := hissued
  rw [step_command hhost, if_pos hlent, hd]

theorem step_of_decode_error {e : Illegal} (hissued : Issued s r rest) (hd : decode r = .error e) :
    step s = .next (raise .errIllegal (dropEvent s)) := by
  obtain ⟨hhost, hlent⟩ := hissued
  rw [step_command hhost, if_pos hlent, hd]

/-- R277: every issued request is answered with the status of its checks. -/
theorem step_answersChecked (hissued : Issued s r rest) : AnswersChecked s r (step s) := by
  cases hd : decode r with
  | ok i =>
    obtain ⟨t, status, rdata, heq, hresponse, hchecked⟩ := exec_answersChecked hd (dropEvent s)
    exact ⟨t, status, rdata, (step_of_decode_ok hissued hd).trans heq, hresponse, hchecked.of_dropEvent⟩
  | error e =>
    rw [step_of_decode_error hissued hd]
    exact (Checked.illegal (.inl (illegalOp_of_decode_error hd))).answers _ _

/-- R277: the status of a response is the one of the checks, read from the step that gave it. -/
theorem checked_of_step (hhost : s.host = .command r :: rest) (h : step s = .next t)
    (hresponse : t.response = some ⟨status, rdata⟩) : Checked s r status := by
  obtain ⟨t', status', rdata', heq, hresponse', hchecked⟩ := step_answersChecked (issued_of_step hhost h)
  cases heq.symm.trans h
  cases hresponse'.symm.trans hresponse
  exact hchecked

/-- R275: of the effects of a command, the one with a failing status writes nothing but the response. -/
theorem CommandEffect.eq_raise (h : CommandEffect r s t) (hresponse : t.response = some ⟨status, rdata⟩)
    (hstatus : status ≠ .ok) : t = raise status s := by
  cases h with
  | failed status' => cases hresponse; rfl
  | _ => cases hresponse; exact absurd rfl hstatus

end Step

/-! ## The events still to come and the response before -/

/-- The same unit with other events to come and another response: what R276 says an answer does not depend on. -/
def State.withInterface (host : List HostEvent) (response : Option Response) (s : State) : State :=
  { s with host := host, response := response }

/-- R276: the operation gives the same next state whatever the events to come and the response before. -/
def IgnoresInterface (f : State → Host.Outcome State Fault Refusal) : Prop :=
  ∀ (s t : State) (host : List HostEvent) (response : Option Response), f s = .next t →
    f (s.withInterface host response) = .next { t with host := host }

theorem readAccess_ignoresInterface (w : WidthClass) (v : Motion) (t : Variant) (a : Int) :
    IgnoresInterface (readAccess w v t a) := by
  intro s s' host response h
  rcases readAccess_cases w v t a s with
    ⟨hkind, heq⟩ | ⟨hkind, hcount, heq⟩ | ⟨n, hkind, hcount, hshort, heq⟩ | ⟨n, hkind, hcount, hfits, heq⟩ <;>
    cases heq.symm.trans h
  · exact readAccess_writer hkind
  · exact readAccess_outOfRange hkind hcount
  · exact (readAccess_inRange (s := s.withInterface host response) hkind hcount).1 hshort
  · have hread := (readAccess_inRange (v := v) (t := t) (s := s.withInterface host response) hkind hcount).2 hfits
    cases v <;> exact hread

theorem writeAccess_ignoresInterface (w : WidthClass) (v : Motion) (t : Variant) (value : Data) (a : Int) :
    IgnoresInterface (writeAccess w v t value a) := by
  intro s s' host response h
  rcases writeAccess_cases w v t value a s with
    ⟨hkind, heq⟩ | ⟨hkind, hcount, heq⟩ | ⟨n, hkind, hcount, hshort, heq⟩ | ⟨n, hkind, hcount, hfits, heq⟩ <;>
    cases heq.symm.trans h
  · exact writeAccess_reader hkind
  · exact writeAccess_outOfRange hkind hcount
  · exact writeAccess_exhausted (s := s.withInterface host response) hkind hcount hshort
  · have hwrite := writeAccess_fits (v := v) (t := t) (wdata := value) (s := s.withInterface host response)
      hkind hcount hfits
    cases v <;> exact hwrite

theorem moveTo_ignoresInterface (p : Int) : IgnoresInterface (moveTo p) := by
  intro s s' host response h
  rcases moveTo_cases p s with ⟨hout, heq⟩ | ⟨hlow, hhigh, heq⟩ <;> cases heq.symm.trans h
  · exact moveTo_outOfRange (s := s.withInterface host response) hout
  · exact moveTo_inRange (s := s.withInterface host response) hlow hhigh

/-- R33, R39: a property is a function of `pos` and `BL`. -/
theorem answer_ignoresInterface {value : State → Nat}
    (hvalue : ∀ s host response, value (s.withInterface host response) = value s) :
    IgnoresInterface fun s => answer (value s) s := by
  intro s s' host response h
  cases (answer_eq (value s) s).symm.trans h
  simp only [hvalue, answer_eq]
  rfl

theorem exec_propertySide_ignoresInterface (sel : BitVec 3) (a : Int) :
    IgnoresInterface (exec (propertySide sel a)) := by
  fin_cases sel
  · exact moveTo_ignoresInterface a
  · exact answer_ignoresInterface (value := State.bitLength) fun _ _ _ => rfl
  · exact answer_ignoresInterface (value := State.position) fun _ _ _ => rfl
  · exact moveTo_ignoresInterface a
  · exact answer_ignoresInterface (value := State.bytePosition) fun _ _ _ => rfl
  · exact moveTo_ignoresInterface (8 * a)
  · exact answer_ignoresInterface (value := State.bitOffset) fun _ _ _ => rfl
  · exact answer_ignoresInterface (value := State.remainingBits) fun _ _ _ => rfl

theorem exec_ignoresInterface (i : Instr) : IgnoresInterface (exec i) := by
  induction i using instr_bySide with
  | read v t w a =>
    rw [funext (exec_readSide v t w a)]
    exact readAccess_ignoresInterface _ _ _ _
  | write v t w x a =>
    rw [funext (exec_writeSide v t w x a)]
    exact writeAccess_ignoresInterface _ _ _ _ _
  | property sel a => exact exec_propertySide_ignoresInterface sel a

/-- R276: a unit that agrees on its own state is the same unit at another interface. -/
theorem eq_withInterface {s s' : State} (hkind : s'.kind = s.kind) (hlen : s'.len = s.len)
    (hlent : s'.lent = s.lent) (hbuf : s'.buf = s.buf) (hpos : s'.pos = s.pos) :
    s' = s.withInterface s'.host s'.response := by
  rw [State.withInterface, ← hkind, ← hlen, ← hlent, ← hbuf, ← hpos]

/-! ## Every command, also one that no request decodes to -/

/-- R160, R200, R240 to R247: a command has the effect of a request of its format and side. -/
theorem exec_effect_of_some_request {s t : State} (i : Instr) :
    exec i s = .next t → ∃ r, CommandEffect r s t := by
  induction i using instr_bySide with
  | read v b w a =>
    rw [exec_readSide]
    exact fun h => ⟨_, readAccess_effect ⟨opA false v b w, 0, 0⟩ h⟩
  | write v b w x a =>
    rw [exec_writeSide]
    obtain ⟨h7, h6, -, -, h3, hw⟩ := opA_fields true v b w
    have hside := writeSideOp_of_bits h7 h6
    have hlegal := illegalOp_of_formatA h7 h3 hw
    exact fun h => ⟨_, writeAccess_effect (r := ⟨opA true v b w, 0, x⟩) hside hlegal h⟩
  | property sel a =>
    rcases exec_propertySide_cases sel a s with ⟨p, hexec⟩ | ⟨value, hexec⟩ <;> rw [hexec]
    · exact fun h => ⟨_, moveTo_effect ⟨opP sel, 0, 0⟩ h⟩
    · exact fun h => ⟨_, answer_effect ⟨opP sel, 0, 0⟩ h⟩

/-- R276: a failed command left the same unit at another interface, so issued again it gives the same state. -/
theorem exec_again_of_failed {i : Instr} {s t : State} {status : Status} {rdata : Data} (h : exec i s = .next t)
    (hresponse : t.response = some ⟨status, rdata⟩) (hstatus : status ≠ .ok) : exec i t = .next t := by
  obtain ⟨r, heffect⟩ := exec_effect_of_some_request i h
  cases heffect.eq_raise hresponse hstatus
  exact exec_ignoresInterface i s _ s.host (some ⟨status, 0⟩) h

/-- R278: the outcome is a next state with a response. -/
def Completes (o : Host.Outcome State Fault Refusal) : Prop :=
  ∃ t answer, o = .next t ∧ t.response = some answer

theorem completes_respond (status : Status) (rdata : Data) (s : State) :
    Completes (.next (respond status rdata s)) :=
  ⟨_, _, rfl, respond_response status rdata s⟩

theorem AnswersLegally.completes {o : Host.Outcome State Fault Refusal} (h : AnswersLegally o) : Completes o := by
  obtain ⟨t, status, rdata, heq, hresponse, -⟩ := h
  exact ⟨t, _, heq, hresponse⟩

theorem AnswersChecked.completes {s : State} {r : Request} {o : Host.Outcome State Fault Refusal}
    (h : AnswersChecked s r o) : Completes o := by
  obtain ⟨t, status, rdata, heq, hresponse, -⟩ := h
  exact ⟨t, _, heq, hresponse⟩

theorem moveTo_completes (p : Int) (s : State) : Completes (moveTo p s) := by
  rcases moveTo_cases p s with ⟨-, heq⟩ | ⟨-, -, heq⟩ <;> rw [heq] <;> exact completes_respond _ _ _

/-- R278: an access completes on a unit of its own kind by its checks, and on the other kind as illegal. -/
theorem exec_completes (i : Instr) (s : State) : Completes (exec i s) := by
  induction i using instr_bySide with
  | read v t w a =>
    rw [exec_readSide]
    cases hkind : s.kind with
    | reader => exact (readAccess_answersLegally _ _ _ _ hkind).completes
    | writer => exact readAccess_writer hkind ▸ completes_respond _ _ _
  | write v t w x a =>
    rw [exec_writeSide]
    cases hkind : s.kind with
    | reader => exact writeAccess_reader hkind ▸ completes_respond _ _ _
    | writer => exact (writeAccess_answersLegally _ _ _ _ _ hkind).completes
  | property sel a =>
    rcases exec_propertySide_cases sel a s with ⟨p, hexec⟩ | ⟨value, hexec⟩ <;> rw [hexec]
    · exact moveTo_completes p s
    · exact completes_respond _ _ _

/-! ## The obligations -/

/-- Settles O55: the head of an empty list is no event. -/
theorem idleUnitKeepsItsState : Obligations.IdleUnitKeepsItsState := fun _ => step_idle

/-- Settles O29: of the effects of a command, only the failure has a status other than OK. -/
theorem failureLeavesStateUnchanged : Obligations.FailureLeavesStateUnchanged := by
  intro s t r rest status rdata hhost h hresponse hstatus
  rw [← raise_dropEvent hhost]
  exact (step_command_effect hhost h).eq_raise hresponse hstatus

/-- Settles O30: no shared operation reads the interface, and a failed command wrote nothing else. -/
theorem statusIsFunctionOfCommandAndState : Obligations.StatusIsFunctionOfCommandAndState := by
  refine ⟨fun s s' t r rest rest' hhost hhost' hkind hlen hlent hbuf hpos h => ?_,
    fun i s t status rdata => exec_again_of_failed⟩
  have hissued := issued_of_step hhost h
  have hissued' : Issued s' r rest' := ⟨hhost', hlent.trans hissued.2⟩
  have hdrop : dropEvent s' = (dropEvent s).withInterface rest' s'.response := by
    have heq := eq_withInterface (s := dropEvent s) (s' := dropEvent s') hkind hlen hlent hbuf hpos
    rwa [dropEvent_host, hhost'] at heq
  cases hd : decode r with
  | ok i =>
    rw [step_of_decode_ok hissued hd] at h
    rw [step_of_decode_ok hissued' hd, hdrop]
    exact exec_ignoresInterface i _ _ _ _ h
  | error e =>
    cases (step_of_decode_error hissued hd).symm.trans h
    rw [step_of_decode_error hissued' hd, hdrop]
    rfl

/-- Settles O31: each clause is one case of `Checked`, and the checks give one status. -/
theorem statusFollowsPriority : Obligations.StatusFollowsPriority := by
  intro s r rest hissued
  obtain ⟨t, status, rdata, hstep, hresponse, hchecked⟩ := step_answersChecked hissued
  refine ⟨t, status, rdata, hstep, hresponse, hchecked.errIllegal_iff.2, fun hop hside => ?_⟩
  have hlegal : ¬ IllegalHere s r := not_illegalHere.2 ⟨hop, hside⟩
  refine ⟨fun h7 => ?_, fun h7 => ?_⟩
  · rw [← outOfRange_iff_position h7]
    exact ⟨fun hrange => hchecked.unique (.range hlegal hrange),
      fun hrange => hchecked.unique (.ok hlegal hrange (not_tooFewBits_of_formatP h7))⟩
  · have hrange : countInRange r → ¬ OutOfRange s r := fun hcount =>
      mt (outOfRange_iff_count h7).1 (not_not.2 hcount)
    exact ⟨fun hcount => hchecked.unique (.range hlegal ((outOfRange_iff_count h7).2 hcount)),
      fun hcount hshort => hchecked.unique (.short hlegal (hrange hcount) ⟨h7, hshort⟩),
      fun hcount hfits => hchecked.unique (.ok hlegal (hrange hcount) fun h => Int.not_lt.2 hfits h.2)⟩

/-- Settles O32: ERR_RANGE is the second check, whose count part excludes the Bit class; RDATA is 0 by O29. -/
theorem rangeErrorCauses : Obligations.RangeErrorCauses := by
  intro s t r rest status rdata hhost h hresponse
  refine ⟨?_, fun hstatus => ?_⟩
  · rw [(checked_of_step hhost h hresponse).errRange_iff, not_illegalHere, OutOfRange, not_countInRange, or_comm,
      and_assoc]
  · have hnext := failureLeavesStateUnchanged s t r rest status rdata hhost h hresponse (by rw [hstatus]; decide)
    rw [hnext] at hresponse
    cases hresponse
    rfl

/-- Settles O33: FAIL and ERR_EOS are the third check, in both directions; the next state is O29's. -/
theorem exhaustionBoundaryIsExact : Obligations.ExhaustionBoundaryIsExact := by
  refine ⟨fun s r rest hissued h7 hop hside hcount => ?_, fun s t r rest status rdata hhost h hresponse hstatus => ?_⟩
  · obtain ⟨t, status, rdata, hstep, hresponse, hchecked⟩ := step_answersChecked hissued
    have hlegal : ¬ IllegalHere s r := not_illegalHere.2 ⟨hop, hside⟩
    have hrange : ¬ OutOfRange s r := mt (outOfRange_iff_count h7).1 (not_not.2 hcount)
    refine ⟨fun hshort => ?_, fun hfits => ⟨t, rdata, hstep, ?_⟩⟩
    · cases hchecked.unique (.short hlegal hrange ⟨h7, hshort⟩)
      rw [hstep, ← failureLeavesStateUnchanged s t r rest _ rdata hissued.1 hstep hresponse
        (exhaustion_ne_ok _)]
    · rw [hresponse, hchecked.unique (.ok hlegal hrange fun h => Int.not_lt.2 hfits h.2)]
  · obtain ⟨hlegal, hrange, ⟨h7, hshort⟩, hvariant⟩ := (checked_of_step hhost h hresponse).tooFewBits hstatus
    obtain ⟨hop, hside⟩ := not_illegalHere.1 hlegal
    exact ⟨h7, hop, hside, not_not.1 (mt (outOfRange_iff_count h7).2 hrange), hshort, hvariant⟩

/-- Settles O34: the raisers of each code are read off the case of `Checked` that gives it. -/
theorem statusCodesAndTheirRaisers : Obligations.StatusCodesAndTheirRaisers := by
  refine ⟨⟨rfl, rfl, rfl, rfl, rfl, fun status => by cases status <;> decide⟩,
    fun s t r rest status rdata hhost h hresponse => ?_⟩
  have hchecked := checked_of_step hhost h hresponse
  refine ⟨fun hfail => ?_, fun heos => ?_, fun herr => ?_, hchecked.errIllegal_iff⟩
  · obtain ⟨-, -, ⟨h7, -⟩, hvariant⟩ := hchecked.tooFewBits (.inl hfail)
    exact ⟨h7, exhaustion_eq_fail.1 (hvariant.symm.trans hfail)⟩
  · obtain ⟨-, -, ⟨h7, -⟩, hvariant⟩ := hchecked.tooFewBits (.inr heos)
    exact ⟨h7, exhaustion_eq_errEos.1 (hvariant.symm.trans heos)⟩
  · obtain ⟨-, hposition | ⟨h7, hcount⟩⟩ := hchecked.errRange_iff.1 herr
    · exact .inr (formatP_of_positionOutOfRange hposition).1
    · exact .inl ⟨h7, (not_countInRange.1 hcount).1⟩

/-- Settles O36: side by side every command completes, and every request is answered by its checks. -/
theorem everyCommandCompletes : Obligations.EveryCommandCompletes :=
  ⟨exec_completes, fun _ _ _ hissued => (step_answersChecked hissued).completes⟩

end Sys2Proof.Machine
end

section
/-! SUPPORT. Reset and the lifetime of the buffer (70_reset_and_hazards.md). The events reset, lend and withdraw are
each one state operation after the event is dropped (Laws/Step.lean), so what is left to say is the value of each byte
that a lent buffer gives, and that New 0 always passes its check. -/

namespace Sys2Proof.Machine

open Sys2Proof.Claims

/-! ## The bytes of a lent buffer -/

/-- A byte equal to the unlisted one is left out of the list and reads as itself all the same. -/
theorem Memory.get_ofBytesFrom_cons (b : Byte) (rest : List Byte) (lo i : Nat) :
    Memory.get (Memory.ofBytesFrom lo (b :: rest)) i =
      if i = lo then b else Memory.get (Memory.ofBytesFrom (lo + 1) rest) i := by
  rw [Memory.ofBytesFrom]
  by_cases hb : b = Config.unlistedByte
  · rw [if_pos hb]
    by_cases hi : i = lo
    · rw [if_pos hi, hb, Memory.get_of_lt (Memory.ofBytesFrom_wfFrom rest (lo + 1)) (by omega)]
    · rw [if_neg hi]
  · rw [if_neg hb, Memory.get]

theorem Memory.get_ofBytesFrom (bytes : List Byte) (lo k : Nat) :
    Memory.get (Memory.ofBytesFrom lo bytes) (lo + k) = bytes.getD k Config.unlistedByte := by
  induction bytes generalizing lo k with
  | nil => rfl
  | cons b rest ih =>
    rw [Memory.get_ofBytesFrom_cons]
    cases k with
    | zero => exact if_pos rfl
    | succ k => rw [if_neg (by omega), ← Nat.add_assoc, Nat.add_right_comm, ih, List.getD_cons_succ]

/-- R302: byte `i` of the bound buffer is the `i`-th byte the host lent. -/
theorem Memory.some_get_ofBytes {bytes : List Byte} {i : Nat} (hi : i < bytes.length) :
    some (Memory.get (Memory.ofBytes bytes) i) = bytes[i]? := by
  have hget := Memory.get_ofBytesFrom bytes 0 i
  rw [Nat.zero_add, List.getD_eq_getElem _ _ hi] at hget
  rw [Memory.ofBytes, hget, List.getElem?_eq_getElem hi]

/-! ## The event taken, and New 0 -/

theorem dropEvent_of_host {s : State} {e : HostEvent} {es : List HostEvent} (hhost : s.host = e :: es) :
    dropEvent s = { s with host := es } := by
  rw [dropEvent, hhost, List.tail_cons]

/-- R240: no buffer is too short for position 0. -/
theorem exec_new_zero (s : State) : exec (.new 0) s = .next (respond .ok 0 (s.setPosition 0)) :=
  moveTo_inRange (Int.le_refl 0) (Int.natCast_nonneg _)

/-- R300: reset is a New 0 without its response. -/
theorem resetUnit_eq_setPosition (s : State) : resetUnit s = { s.setPosition 0 with response := none } := rfl

/-! ## The obligations -/

/-- Settles O52: the bound buffer is `Memory.ofBytes` of the bytes lent, and its two bounds are those of the bytes. -/
theorem lendingBindsTheBuffer : Obligations.LendingBindsTheBuffer := by
  intro s bytes rest hhost
  rw [step_lend hhost, dropEvent_of_host hhost]
  refine ⟨fun hlength => ⟨Memory.ofBytes bytes, if_pos hlength, Memory.ofBytes_wf bytes, ?_, fun i hi => ?_⟩,
    fun hlength => if_neg hlength⟩
  · exact hlength ▸ Memory.ofBytes_within bytes
  · exact Memory.some_get_ofBytes (hlength ▸ hi)

/-- Settles O23: the state after reset is the one after New 0, which always passes its check, without the response. -/
theorem resetEventClearsPosition : Obligations.ResetEventClearsPosition := by
  intro s rest hhost
  rw [step_reset hhost, dropEvent_of_host hhost]
  exact ⟨rfl, _, exec_new_zero _, respond_response .ok 0 _, congrArg _ (resetUnit_eq_setPosition _), rfl⟩

/-- Settles O53: the host's withdrawal clears `lent`, which is the first thing a command looks at. -/
theorem commandAfterWithdrawalIsRefused : Obligations.CommandAfterWithdrawalIsRefused := by
  refine ⟨fun s rest hhost => ?_, fun s r rest hhost hlent => ?_⟩
  · rw [step_withdraw hhost, dropEvent_of_host hhost, releaseBuffer]
  · rw [step_command hhost, hlent, if_neg Bool.false_ne_true]

end Sys2Proof.Machine
end

section
/-! SUPPORT. The two sides of access as relations of a step: `ReadEffect` and `WriteEffect` say what one read-side and
one write-side command leave, with the count of the request (R97) and the field bit by bit (R139, R140). The properties
of the reader family (41_reader.md) and of the writer family (42_writer.md) are read off their two cases. -/

namespace Sys2Proof.Machine

open Sys2Proof.Claims

/-! ## The two relations -/

/-- R160: the next states of a unit in state `s` that runs the read-side request `r`: a failure (R275), or the field at
`pos` as RDATA, with `pos` moved where `V = 1`. -/
inductive ReadEffect (r : Request) (s : State) : State → Prop where
  | failed (status : Status) (hstatus : status ≠ .ok) : ReadEffect r s (raise status s)
  | read (n : Nat) (rdata : Data) (hcount : countOf r = n) (hn : 1 ≤ n)
      (hfits : s.position + n ≤ s.bitLength) (hfield : IsField s.buf s.position n rdata) :
      ReadEffect r s (respond .ok rdata (advanceBy (motionOf (r.op.getLsbD 5)) n s))

/-- R200: the next states of a unit in state `s` that runs the write-side request `r`: a failure (R275), or a buffer
with the field at `pos` written from WDATA, with `pos` moved where `V = 1`. -/
inductive WriteEffect (r : Request) (s : State) : State → Prop where
  | failed (status : Status) (hstatus : status ≠ .ok) : WriteEffect r s (raise status s)
  | wrote (n : Nat) (m : Memory) (hcount : countOf r = n) (hfits : s.position + n ≤ s.bitLength)
      (hwritten : Memory.wf s.buf = true → Memory.wf m = true ∧ FieldWritten s.buf m s.position n r.wdata) :
      WriteEffect r s (respond .ok 0 (advanceBy (motionOf (r.op.getLsbD 5)) n (s.setBuffer m)))

/-! ## A step at an access has its relation -/

section Access

variable {r : Request} {s t : State}

theorem readAccess_readEffect {w : WidthClass} {variant : Variant} (hw : r.op.extractLsb 2 0 = fieldOfWidth w)
    (h : readAccess w (motionOf (r.op.getLsbD 5)) variant (signedArg r.arg) s = .next t) : ReadEffect r s t := by
  rcases readAccess_cases w (motionOf (r.op.getLsbD 5)) variant (signedArg r.arg) s with
    ⟨-, heq⟩ | ⟨-, -, heq⟩ | ⟨n, -, -, -, heq⟩ | ⟨n, -, hcount, hfits, heq⟩ <;> cases heq.symm.trans h
  · exact .failed _ (by decide)
  · exact .failed _ (by decide)
  · exact .failed _ (exhausted_ne_ok variant)
  · obtain ⟨hn, hmax⟩ := bitCount_bounds hcount
    exact .read n _ (countOf_eq_of_bitCount hw hcount) hn hfits (fieldRead_isField w _ _ hn hmax)

theorem writeAccess_writeEffect {w : WidthClass} {variant : Variant} (hw : r.op.extractLsb 2 0 = fieldOfWidth w)
    (h : writeAccess w (motionOf (r.op.getLsbD 5)) variant r.wdata (signedArg r.arg) s = .next t) :
    WriteEffect r s t := by
  rcases writeAccess_cases w (motionOf (r.op.getLsbD 5)) variant r.wdata (signedArg r.arg) s with
    ⟨-, heq⟩ | ⟨-, -, heq⟩ | ⟨n, -, -, -, heq⟩ | ⟨n, -, hcount, hfits, heq⟩ <;> cases heq.symm.trans h
  · exact .failed _ (by decide)
  · exact .failed _ (by decide)
  · exact .failed _ (exhausted_ne_ok variant)
  · obtain ⟨hn, hmax⟩ := bitCount_bounds hcount
    exact .wrote n _ (countOf_eq_of_bitCount hw hcount) hfits fun hm =>
      ⟨fieldWrite_wf w _ _ hm hn, fieldWrite_writeValue_written w _ r.wdata hm hn hmax⟩

theorem readSideOp_iff {op : Byte} : readSideOp op = true ↔ op.getLsbD 7 = false ∧ op.getLsbD 6 = false := by
  simp only [readSideOp, Bool.and_eq_true, Bool.not_eq_true']

theorem writeSideOp_iff {op : Byte} : writeSideOp op = true ↔ op.getLsbD 7 = false ∧ op.getLsbD 6 = true := by
  simp only [writeSideOp, Bool.and_eq_true, Bool.not_eq_true']

theorem exec_readEffect {i : Instr} (hside : readSideOp r.op = true) (hd : decode r = .ok i)
    (h : exec i s = .next t) : ReadEffect r s t := by
  obtain ⟨h7, h6⟩ := readSideOp_iff.1 hside
  rcases decode_cases r with
    ⟨h7', -⟩ | ⟨⟨e, heq⟩, -⟩ | ⟨w, -, -, -, hw, heq⟩ | ⟨w, -, -, h6', -⟩
  · cases h7.symm.trans h7'
  · cases heq.symm.trans hd
  · cases heq.symm.trans hd
    rw [exec_readSide] at h
    exact readAccess_readEffect hw h
  · cases h6.symm.trans h6'

theorem exec_writeEffect {i : Instr} (hside : writeSideOp r.op = true) (hd : decode r = .ok i)
    (h : exec i s = .next t) : WriteEffect r s t := by
  obtain ⟨h7, h6⟩ := writeSideOp_iff.1 hside
  rcases decode_cases r with
    ⟨h7', -⟩ | ⟨⟨e, heq⟩, -⟩ | ⟨w, -, -, h6', -⟩ | ⟨w, -, -, -, hw, heq⟩
  · cases h7.symm.trans h7'
  · cases heq.symm.trans hd
  · cases h6.symm.trans h6'
  · cases heq.symm.trans hd
    rw [exec_writeSide] at h
    exact writeAccess_writeEffect hw h

/-- R160, R277: a step at a read-side request, legal or not, fails or reads its field. -/
theorem step_readEffect {rest : List HostEvent} (hhost : s.host = .command r :: rest)
    (hside : readSideOp r.op = true) (h : step s = .next t) : ReadEffect r (dropEvent s) t := by
  have hissued := issued_of_step hhost h
  cases hd : decode r with
  | ok i => exact exec_readEffect hside hd ((step_of_decode_ok hissued hd).symm.trans h)
  | error e =>
    cases (step_of_decode_error hissued hd).symm.trans h
    exact .failed _ (by decide)

/-- R200, R277: a step at a write-side request, legal or not, fails or writes its field. -/
theorem step_writeEffect {rest : List HostEvent} (hhost : s.host = .command r :: rest)
    (hside : writeSideOp r.op = true) (h : step s = .next t) : WriteEffect r (dropEvent s) t := by
  have hissued := issued_of_step hhost h
  cases hd : decode r with
  | ok i => exact exec_writeEffect hside hd ((step_of_decode_ok hissued hd).symm.trans h)
  | error e =>
    cases (step_of_decode_error hissued hd).symm.trans h
    exact .failed _ (by decide)

/-! ## What the relations keep and move -/

theorem advanceBy_motionOf_false {v : Bool} (hv : v = false) (n : Nat) (s : State) :
    advanceBy (motionOf v) n s = s := by
  rw [hv]
  rfl

/-- R160, R200: with `V = 1`, a field that fits moves `pos` by its count. -/
theorem advanceBy_motionOf_true_position {v : Bool} (hv : v = true) {n : Nat} (hfits : s.position + n ≤ s.bitLength) :
    (advanceBy (motionOf v) n s).position = s.position + n := by
  rw [hv]
  exact setPosition_position _ s hfits

/-- A command takes only its own event off the host's list. -/
theorem step_command_host {rest : List HostEvent} (hhost : s.host = .command r :: rest) (h : step s = .next t) :
    t.host = rest := by
  have htail : (dropEvent s).host = rest := by rw [dropEvent_host, hhost, List.tail_cons]
  rw [← htail]
  cases step_command_effect hhost h <;> simp

theorem ReadEffect.keeps_buf (h : ReadEffect r s t) : t.buf = s.buf := by
  cases h with
  | failed => rfl
  | read n rdata => exact advanceBy_buf _ n s

/-- R160, R182: a read-side command that answers OK has read the field of its count, and with `V = 1` moved over it. -/
theorem ReadEffect.of_ok {rdata : Data} (h : ReadEffect r s t) (hok : t.response = some ⟨.ok, rdata⟩) :
    ∃ n : Nat, countOf r = n ∧ 1 ≤ n ∧ IsField s.buf s.position n rdata ∧
      (r.op.getLsbD 5 = true → t.position = s.position + n) := by
  cases h with
  | failed status hstatus =>
    cases hok
    exact absurd rfl hstatus
  | read n x hcount hn hfits hfield =>
    cases hok
    exact ⟨n, hcount, hn, hfield, fun hv => advanceBy_motionOf_true_position hv hfits⟩

/-- R200, R222: a write-side command that answers OK has written the field of its count into a buffer that holds it, and
with `V = 1` moved over it. -/
theorem WriteEffect.of_ok {rdata : Data} (h : WriteEffect r s t) (hok : t.response = some ⟨.ok, rdata⟩) :
    ∃ n : Nat, countOf r = n ∧ s.position + n ≤ s.bitLength ∧
      (Memory.wf s.buf = true → Memory.wf t.buf = true ∧ FieldWritten s.buf t.buf s.position n r.wdata) ∧
      (r.op.getLsbD 5 = true → t.position = s.position + n) := by
  cases h with
  | failed status hstatus =>
    cases hok
    exact absurd rfl hstatus
  | wrote n m hcount hfits hwritten =>
    rw [respond_buf, advanceBy_buf, setBuffer_buf]
    exact ⟨n, hcount, hfits, hwritten, fun hv => advanceBy_motionOf_true_position (s := s.setBuffer m) hv hfits⟩

end Access

/-! ## Two fields in a row -/

/-- R183: the value of two fields in a row is the first value shifted over the second. -/
theorem fieldValue_append (m : Memory) (p n k : Nat) :
    fieldValue m p n * 2 ^ k + fieldValue m (p + n) k = fieldValue m p (n + k) := by
  simp only [fieldValue, Finset.sum_range_add, Finset.sum_mul]
  congr 1 <;> refine Finset.sum_congr rfl fun j hj => ?_
  · have hj' := Finset.mem_range.1 hj
    rw [Nat.mul_assoc, ← Nat.pow_add, show n - 1 - j + k = n + k - 1 - j by omega]
  · rw [Nat.add_assoc, show n + k - 1 - (n + j) = k - 1 - j by omega]

/-- R224: a second field written just after a first one leaves the first as it was. -/
theorem fieldWritten_consecutive {m m' m'' : Memory} {p n k : Nat} {v v' : Data} (h : FieldWritten m m' p n v)
    (h' : FieldWritten m' m'' (p + n) k v') :
    (∀ j, j < n → Memory.bit m'' (p + j) = v.getLsbD (n - 1 - j)) ∧
      (∀ j, j < k → Memory.bit m'' (p + n + j) = v'.getLsbD (k - 1 - j)) ∧
      ∀ q, q < p ∨ p + n + k ≤ q → Memory.bit m'' q = Memory.bit m q := by
  obtain ⟨hfirst, hrest⟩ := h
  obtain ⟨hsecond, hrest'⟩ := h'
  exact ⟨fun j hj => (hrest' _ (by omega)).trans (hfirst j hj), hsecond,
    fun q hq => (hrest' q (by omega)).trans (hrest q (by omega))⟩

/-! ## A Reader over the bytes of a Writer -/

/-- R101: a Reader accepts the read side. -/
theorem wrongSide_reader_of_readSideOp {op : Byte} (h : readSideOp op = true) : wrongSide .reader op = false := by
  obtain ⟨-, h6⟩ := readSideOp_iff.1 h
  simp only [wrongSide, writeSideOp, h6, Bool.and_false]

/-! ## The obligations -/

/-- Settles O43: neither case of `ReadEffect` writes the buffer, and with `V = 0` neither writes `pos`. -/
theorem readSideKeepsBufferAndPeekKeepsPosition : Obligations.ReadSideKeepsBufferAndPeekKeepsPosition := by
  intro s t r rest hhost hside h
  have heffect := step_readEffect hhost hside h
  refine ⟨heffect.keeps_buf, fun hv => ?_⟩
  cases heffect with
  | failed => rfl
  | read n rdata => rw [advanceBy_motionOf_false hv]; rfl

/-- Settles O44: an OK answer moves `pos` by the count, which is at least 1; a failure writes no state (O29). -/
theorem readAdvancesExactlyByWidth : Obligations.ReadAdvancesExactlyByWidth := by
  intro s t r rest status rdata hhost hside hv h hresponse
  refine ⟨fun hok => ?_, fun hfailed => ?_⟩
  · subst hok
    obtain ⟨n, hcount, hn, -, hmoved⟩ := (step_readEffect hhost hside h).of_ok hresponse
    have hpos : t.position = s.position + n := hmoved hv
    omega
  · rw [failureLeavesStateUnchanged s t r rest status rdata hhost h hresponse hfailed]

/-- Settles O45: `WriteEffect` with the answer OK has the field written, and the event taken changes no bit. -/
theorem writeChangesExactlyTheField : Obligations.WriteChangesExactlyTheField := by
  intro s t r rest rdata hhost hside hm h hok
  obtain ⟨n, hcount, -, hwrites, -⟩ := (step_writeEffect hhost hside h).of_ok hok
  obtain ⟨-, hwritten⟩ := hwrites hm
  rwa [hcount, Int.toNat_natCast]

/-- Settles O46: with `V = 0` no case of `WriteEffect` moves `pos`; with `V = 1` an OK answer moves it by the count, and
a failure writes no state (O29). -/
theorem writeAdvancesExactlyByWidth : Obligations.WriteAdvancesExactlyByWidth := by
  intro s t r rest status rdata hhost hside h hresponse
  have heffect := step_writeEffect hhost hside h
  refine ⟨fun hv => ?_, fun hv hok => ?_, fun _ hfailed => ?_⟩
  · cases heffect with
    | failed => rfl
    | wrote n m => rw [advanceBy_motionOf_false hv]; rfl
  · subst hok
    obtain ⟨n, hcount, -, -, hmoved⟩ := heffect.of_ok hresponse
    have hpos : t.position = s.position + n := hmoved hv
    omega
  · rw [failureLeavesStateUnchanged s t r rest status rdata hhost h hresponse hfailed]
    exact ⟨rfl, rfl⟩

/-- Settles O47: the second read starts where the first one left `pos`, over the same buffer. -/
theorem consecutiveReadsLeaveNoGap : Obligations.ConsecutiveReadsLeaveNoGap := by
  intro s t u r1 r2 rest v1 v2 hhost hside1 hv1 hside2 hv2 h1 hok1 h2 hok2
  have heffect1 := step_readEffect hhost hside1 h1
  have heffect2 := step_readEffect (step_command_host hhost h1) hside2 h2
  obtain ⟨n, hcount1, -, hfield1, hmoved1⟩ := heffect1.of_ok hok1
  obtain ⟨k, hcount2, -, hfield2, hmoved2⟩ := heffect2.of_ok hok2
  have hbuf : t.buf = s.buf := heffect1.keeps_buf
  have hpos : t.position = s.position + n := hmoved1 hv1
  have hpos' : u.position = t.position + k := hmoved2 hv2
  rw [dropEvent_buf, dropEvent_position] at hfield1 hfield2
  rw [hbuf, hpos] at hfield2
  rw [hcount1, hcount2, Int.toNat_natCast, Int.toNat_natCast, hfield1.toNat_eq_fieldValue,
    hfield2.toNat_eq_fieldValue, hpos', hpos]
  exact ⟨rfl, rfl, fieldValue_append _ _ _ _, rfl⟩

/-- Settles O48: the second write starts where the first one left `pos`, and keeps every bit before it. -/
theorem consecutiveWritesLeaveNoGap : Obligations.ConsecutiveWritesLeaveNoGap := by
  intro s t u r1 r2 rest d1 d2 hhost hm hside1 hv1 hside2 hv2 h1 hok1 h2 hok2
  obtain ⟨n, hcount1, -, hwrites1, hmoved1⟩ := (step_writeEffect hhost hside1 h1).of_ok hok1
  obtain ⟨k, hcount2, -, hwrites2, -⟩ :=
    (step_writeEffect (step_command_host hhost h1) hside2 h2).of_ok hok2
  obtain ⟨hm', hwritten1⟩ := hwrites1 hm
  obtain ⟨-, hwritten2⟩ := hwrites2 hm'
  have hpos : t.position = s.position + n := hmoved1 hv1
  rw [dropEvent_buf, dropEvent_position] at hwritten1 hwritten2
  rw [hpos] at hwritten2
  rw [hcount1, hcount2, Int.toNat_natCast, Int.toNat_natCast]
  exact fieldWritten_consecutive hwritten1 hwritten2

/-- Settles O49: the Reader has the Writer's length and position, so the field fits it as well (O33), and it reads the
bits that the write left. -/
theorem writerThenReaderRoundTrips : Obligations.WriterThenReaderRoundTrips := by
  intro s t u rw rr rest rest' d hhost hside hm h hok hkind hlen hbuf hpos hissued hreads hlegal hrange hcount
  obtain ⟨n, hcountw, hfits, hwrites, -⟩ := (step_writeEffect hhost hside h).of_ok hok
  obtain ⟨-, hwritten⟩ := hwrites hm
  rw [dropEvent_buf, dropEvent_position] at hwritten
  rw [dropEvent_position, dropEvent_bitLength] at hfits
  have hposition : u.position = s.position := congrArg BitVec.toNat hpos
  have hlength : u.bitLength = s.bitLength := by
    obtain ⟨hkeeps, -⟩ := (step_effect h).keeps_parameters
    exact bitLength_eq_of_len_eq (hlen.trans hkeeps)
  have henough : countOf rr ≤ remaining u := by
    rw [remaining, hcount, hcountw, hposition, hlength]
    omega
  obtain ⟨h7, -⟩ := readSideOp_iff.1 hreads
  obtain ⟨x, v, hstep, hanswer⟩ := (exhaustionBoundaryIsExact.1 u rr rest' hissued h7 hlegal
    (hkind ▸ wrongSide_reader_of_readSideOp hreads) hrange).2 henough
  obtain ⟨k, hcountr, -, hfield, -⟩ := (step_readEffect hissued.1 hreads hstep).of_ok hanswer
  obtain rfl : n = k := by omega
  rw [dropEvent_buf, dropEvent_position, hbuf, hposition] at hfield
  refine ⟨x, v, hstep, hanswer, ?_⟩
  rw [hcountw, Int.toNat_natCast]
  exact hfield.toNat_eq_mod_of_written hwritten

end Sys2Proof.Machine
end

section
/-! SUPPORT. The decoder against R100's three forms, and the step at a request that decodes. -/

namespace Sys2Proof.Machine

open Sys2Proof.Claims

/-! ## Legal and illegal OP values -/

/-- R96, R100: a format-P OP value whose reserved field is 0 is legal. -/
theorem illegalOp_of_formatP {r : Request} (h7 : r.op.getLsbD 7 = true) (hreserved : r.op.extractLsb 6 3 = 0) :
    illegalOp r.op = false :=
  (not_illegalHere.1 (not_illegalHere_propertySide (s := State.reset) h7 hreserved)).1

/-- R100, R103: an OP value that decodes has none of the illegal forms. -/
theorem illegalOp_of_decode_ok {r : Request} {i : Instr} (h : decode r = .ok i) : illegalOp r.op = false := by
  rcases decode_cases r with
    ⟨h7, hreserved, -⟩ | ⟨⟨e, heq⟩, -⟩ | ⟨w, h7, h3, -, hw, -⟩ | ⟨w, h7, h3, -, hw, -⟩
  · exact illegalOp_of_formatP h7 hreserved
  · cases heq.symm.trans h
  · exact illegalOp_of_formatA h7 h3 hw
  · exact illegalOp_of_formatA h7 h3 hw

/-- R100, R103: the decoder rejects the three illegal forms and nothing else. -/
theorem decode_error_iff {r : Request} : (∃ e, decode r = .error e) ↔ illegalOp r.op = true := by
  refine ⟨fun ⟨_, h⟩ => illegalOp_of_decode_error h, fun hillegal => ?_⟩
  cases hd : decode r with
  | error e => exact ⟨e, rfl⟩
  | ok i => cases (illegalOp_of_decode_ok hd).symm.trans hillegal

/-- R94, R96, R100: the legal OP values are five widths in each of the eight modes of format A, and eight selectors. -/
theorem legalOps_eq :
    ((List.range 256).filter fun n => !illegalOp (BitVec.ofNat 8 n)) =
      List.range' 0x00 5 ++ List.range' 0x10 5 ++ List.range' 0x20 5 ++ List.range' 0x30 5 ++
        List.range' 0x40 5 ++ List.range' 0x50 5 ++ List.range' 0x60 5 ++ List.range' 0x70 5 ++
        List.range' 0x80 8 := by
  decide

/-- R100: the 48 legal values leave 208 of the 256. -/
theorem illegalOps_length :
    ((List.range 256).filter fun n => illegalOp (BitVec.ofNat 8 n)).length = 208 := by
  have hparts := List.length_eq_length_filter_add (l := List.range 256) fun n => illegalOp (BitVec.ofNat 8 n)
  rw [legalOps_eq] at hparts
  simpa using hparts.symm

/-! ## The obligations -/

/-- Settles O1: each OP byte is the one of its side, mode and class, or of its selector, and ARG is read as signed. -/
theorem sampleRequestsDecode : Obligations.SampleRequestsDecode :=
  ⟨decode_readOp true true .byte 5 0, decode_readOp false false .bit 0 0,
    decode_readOp false true .short 0xFFFFFFFF 0, decode_writeOp true false .int 32 0xDEADBEEF,
    decode_writeOp true true .long 64 7, decode_writeOp false false .bit 0 1, decode_propertyOp 3 17 0,
    decode_propertyOp 7 0 0⟩

/-- Settles O4: by the decoder's four cases, with the legal values computed and the illegal ones counted from them. -/
theorem illegalOpcodesAnswerIllegal : Obligations.IllegalOpcodesAnswerIllegal := by
  refine ⟨fun _ => decode_error_iff, illegalOps_length, legalOps_eq, fun s r rest hissued hillegal => ?_⟩
  obtain ⟨e, hd⟩ := decode_error_iff.2 hillegal
  rw [step_of_decode_error hissued hd, raise_dropEvent hissued.1]

/-- Settles O6: the state without its event is the one with the rest of the host's list. -/
theorem stepRunsDecodedCommand : Obligations.StepRunsDecodedCommand := by
  intro s r rest i hissued hd
  rw [step_of_decode_ok hissued hd, dropEvent_of_host hissued.1]

end Sys2Proof.Machine
end

section
/-! SUPPORT. The closed forms of the field primitive (R139, R140), and the bytes that a field touches (R65). Reads and
writes are known bit by bit, so what is left is that bits of equal bytes are equal. -/

namespace Sys2Proof.Machine

open Sys2Proof.Claims

/-- R62, R139: the value of a field depends only on the bytes that it touches. -/
theorem fieldValue_congr {m m' : Memory} {p n : Nat}
    (h : ∀ i, p / 8 ≤ i → i ≤ (p + n - 1) / 8 → Memory.get m i = Memory.get m' i) :
    fieldValue m p n = fieldValue m' p n := by
  refine Finset.sum_congr rfl fun k hk => ?_
  have hk' := Finset.mem_range.1 hk
  rw [Memory.bit, Memory.bit, h _ (by omega) (by omega)]

/-- R62, R140: a byte after a field write is a function of the value and of that byte before it. -/
theorem get_congr_of_written {m m' x x' : Memory} {p n : Nat} {v : Data} {i : Nat} (h : FieldWritten m x p n v)
    (h' : FieldWritten m' x' p n v) (hi : Memory.get m i = Memory.get m' i) :
    Memory.get x i = Memory.get x' i := by
  obtain ⟨hfield, hrest⟩ := h
  obtain ⟨hfield', hrest'⟩ := h'
  refine BitVec.eq_of_getLsbD_eq fun t ht => ?_
  rw [Memory.getLsbD_get x i ht, Memory.getLsbD_get x' i ht]
  by_cases hq : 8 * i + (7 - t) < p ∨ p + n ≤ 8 * i + (7 - t)
  · rw [hrest _ hq, hrest' _ hq, ← Memory.getLsbD_get m i ht, ← Memory.getLsbD_get m' i ht, hi]
  · obtain ⟨k, hk⟩ : ∃ k, 8 * i + (7 - t) = p + k := ⟨8 * i + (7 - t) - p, by omega⟩
    rw [hk, hfield k (by omega), hfield' k (by omega)]

/-! ## The obligations -/

/-- Settles O37: every class reads its field bit by bit, and the bits sum to the value. -/
theorem fieldReadEqualsClosedForm : Obligations.FieldReadEqualsClosedForm :=
  fun w m p _ hn hmax => (fieldRead_isField w m p hn hmax).toNat_eq_fieldValue

/-- Settles O38: every class writes its field bit by bit. -/
theorem fieldWriteEqualsClosedForm : Obligations.FieldWriteEqualsClosedForm :=
  fun w _ p _ v hm hn hmax => fieldWrite_written w p v hm hn hmax

/-- Settles O40: a field of at most 64 bits lies in nine bytes, and both closed forms look at no byte outside them. -/
theorem accessTouchesOnlyFieldBytes : Obligations.AccessTouchesOnlyFieldBytes := by
  intro w m m' p n v hn hmax
  have hwidth := classMax_le w
  refine ⟨by omega, fun hagree => ⟨?_, fun hm hm' i hlow hhigh => ?_⟩, fun hm => ?_⟩
  · rw [fieldRead_eq_ofNat_fieldValue w m p hn hmax, fieldRead_eq_ofNat_fieldValue w m' p hn hmax,
      fieldValue_congr hagree]
  · exact get_congr_of_written (fieldWrite_written w p v hm hn hmax) (fieldWrite_written w p v hm' hn hmax)
      (hagree i hlow hhigh)
  · exact otherBytesKept_of_written (fieldWrite_written w p v hm hn hmax)

end Sys2Proof.Machine
end

section
/-! SUPPORT. RDATA and the exhausted state, by side: a format-P request is taken apart by its selector into a checked
move or an answer, a format-A request into `ReadEffect` or `WriteEffect`. -/

namespace Sys2Proof.Machine

open Sys2Proof.Claims

/-! ## Format-P requests -/

/-- R96: the OP bytes of the five get commands, by selector. -/
theorem opP_of_not_takesPosition {sel : BitVec 3} (h : takesPosition sel = false) :
    opP sel = 0x81 ∨ opP sel = 0x82 ∨ opP sel = 0x84 ∨ opP sel = 0x86 ∨ opP sel = 0x87 := by
  revert sel
  decide

/-- R92, R96, R100: a legal format-P request decodes to the property-side command of its selector. -/
theorem decode_formatP {r : Request} (h7 : r.op.getLsbD 7 = true) (hlegal : illegalOp r.op = false) :
    decode r = .ok (propertySide (r.op.extractLsb 2 0) r.arg.toInt) ∧ r.op = opP (r.op.extractLsb 2 0) := by
  rcases decode_cases r with ⟨-, hreserved, heq⟩ | ⟨⟨e, heq⟩, -⟩ | ⟨w, h7', -⟩ | ⟨w, h7', -⟩
  · rw [← signedArg_eq_toInt]
    exact ⟨heq, (opP_of_fields h7 hreserved).symm⟩
  · cases hlegal.symm.trans (illegalOp_of_decode_error heq)
  · cases h7.symm.trans h7'
  · cases h7.symm.trans h7'

/-- R240, R243, R245: New and SetBitPosition have their operand as target, and SetBytePosition eight times it. -/
theorem targetOf_opP {op : Byte} {sel : BitVec 3} (hop : op = opP sel) (a : Int) :
    (op = 0x80 ∨ op = 0x83 → targetOf sel a = a) ∧ (op = 0x85 → targetOf sel a = 8 * a) := by
  obtain ⟨hbit, hbyte⟩ := opP_writesPosition sel
  subst hop
  refine ⟨fun h => ?_, fun h => if_pos (hbyte.1 h)⟩
  rcases hbit.1 h with rfl | rfl <;> rfl

/-- R96: a format-P request without a target is neither New nor one of the two position commands. -/
theorem takesPosition_of_opP {op : Byte} {sel : BitVec 3} (hop : op = opP sel)
    (h : op = 0x80 ∨ op = 0x83 ∨ op = 0x85) : takesPosition sel = true := by
  subst hop
  revert sel
  decide

/-- R240 to R247: a legal format-P command whose target is in range answers OK and reaches its target. -/
theorem exec_propertySide_reaches {s : State} {r : Request} {sel : BitVec 3} (hop : r.op = opP sel)
    (hrange : ¬ positionOutOfRange s r) :
    ∃ t, exec (propertySide sel r.arg.toInt) s = .next t ∧ AnsweredOk t ∧
      (takesPosition sel = true → (t.position : Int) = targetOf sel r.arg.toInt) := by
  rw [positionOutOfRange_opP hop] at hrange
  rcases exec_propertySide_byTarget sel r.arg.toInt s with ⟨htakes, hexec⟩ | ⟨htakes, value, hexec⟩
  · have hlow : 0 ≤ targetOf sel r.arg.toInt := by
      by_contra hout
      exact hrange ⟨htakes, .inl (Int.not_le.1 hout)⟩
    have hhigh : targetOf sel r.arg.toInt ≤ s.bitLength := by
      by_contra hout
      exact hrange ⟨htakes, .inr (Int.not_le.1 hout)⟩
    exact ⟨_, hexec.trans (moveTo_inRange hlow hhigh), answeredOk_respond _ _,
      fun _ => setPosition_toNat_position hlow hhigh⟩
  · exact ⟨_, hexec.trans (answer_eq value s), answeredOk_respond _ _,
      fun htakes' => by cases htakes.symm.trans htakes'⟩

/-- R99: a checked move of `pos` answers with RDATA 0 on every status. -/
theorem moveTo_rdata {p : Int} {s t : State} {status : Status} {rdata : Data} (h : moveTo p s = .next t)
    (hresponse : t.response = some ⟨status, rdata⟩) : rdata = 0 := by
  rcases moveTo_cases p s with ⟨-, heq⟩ | ⟨-, -, heq⟩ <;> cases heq.symm.trans h <;> cases hresponse <;> rfl

/-- R99: a write-side command answers with RDATA 0 on every status. -/
theorem WriteEffect.rdata_eq_zero {r : Request} {s t : State} {status : Status} {rdata : Data}
    (h : WriteEffect r s t) (hresponse : t.response = some ⟨status, rdata⟩) : rdata = 0 := by
  cases h <;> cases hresponse <;> rfl

/-- R39, R99: of the property side, only the five get commands answer with an RDATA other than 0. -/
theorem exec_propertySide_rdata {sel : BitVec 3} {a : Int} {s t : State} {status : Status} {rdata : Data}
    (h : exec (propertySide sel a) s = .next t) (hresponse : t.response = some ⟨status, rdata⟩)
    (hrdata : rdata ≠ 0) : takesPosition sel = false := by
  rcases exec_propertySide_byTarget sel a s with ⟨-, hexec⟩ | ⟨htakes, -⟩
  · exact absurd (moveTo_rdata (hexec.symm.trans h) hresponse) hrdata
  · exact htakes

/-! ## `pos` stays at most `BL` -/

/-- R249: every effect of a command leaves `pos` at most `BL`, whatever the buffer. -/
theorem CommandEffect.keeps_position_le {r : Request} {s t : State} (h : CommandEffect r s t)
    (hs : s.position ≤ s.bitLength) : t.position ≤ t.bitLength := by
  cases h with
  | failed => exact hs
  | answered => exact hs
  | moved p hp => exact (setPosition_position p s hp).trans_le hp
  | read w v n hkind hfits => simpa using advanceBy_position_le v hfits
  | wrote w v n value hside hlegal hkind hn hfits =>
    simpa using advanceBy_position_le v (s := s.setBuffer (fieldWrite w s.buf s.position n value)) hfits

/-! ## The obligations -/

/-- Settles O35: a failure carries 0 (O29), and so do a write and a checked move of `pos`. -/
theorem responsesWithoutValueCarryZero : Obligations.ResponsesWithoutValueCarryZero := by
  intro s t r rest status rdata hhost h hresponse hrdata
  have hstatus : status = .ok := by
    by_contra hfailed
    rw [failureLeavesStateUnchanged s t r rest status rdata hhost h hresponse hfailed] at hresponse
    cases hresponse
    exact hrdata rfl
  have hlegal : ¬ IllegalHere s r := fun hillegal => by
    cases hstatus.symm.trans ((checked_of_step hhost h hresponse).errIllegal_iff.2 hillegal)
  refine ⟨hstatus, ?_⟩
  cases h7 : r.op.getLsbD 7 with
  | true =>
    obtain ⟨hd, hop⟩ := decode_formatP h7 (not_illegalHere.1 hlegal).1
    rw [step_of_decode_ok (issued_of_step hhost h) hd] at h
    rw [hop]
    exact .inr (opP_of_not_takesPosition (exec_propertySide_rdata h hresponse hrdata))
  | false =>
    cases h6 : r.op.getLsbD 6 with
    | false => exact .inl (readSideOp_iff.2 ⟨h7, h6⟩)
    | true => exact absurd ((step_writeEffect hhost (writeSideOp_of_bits h7 h6) h).rdata_eq_zero hresponse) hrdata

/-- Settles O28: at `pos = BL` no bit is left, so a count of at least 1 is too many (O33); the range check of format P
does not look at `pos`. -/
theorem exhaustedStateOnlyRepositions : Obligations.ExhaustedStateOnlyRepositions := by
  refine ⟨fun i s t hs h => ?_, fun s r rest hissued hend => ⟨fun h7 hop hside hcount => ?_, fun h7 hop hrange => ?_⟩⟩
  · obtain ⟨r, heffect⟩ := exec_effect_of_some_request i h
    exact heffect.keeps_position_le hs
  · have hshort : remaining s < countOf r := by
      obtain ⟨hpositive, -⟩ := hcount
      rw [remaining, hend]
      omega
    exact (exhaustionBoundaryIsExact.1 s r rest hissued h7 hop hside hcount).1 hshort
  · obtain ⟨hd, hopP⟩ := decode_formatP h7 hop
    obtain ⟨t, hexec, ⟨rdata, hok⟩, htarget⟩ := exec_propertySide_reaches (s := dropEvent s) hopP hrange
    obtain ⟨hbit, hbyte⟩ := targetOf_opP hopP r.arg.toInt
    refine ⟨t, rdata, (step_of_decode_ok hissued hd).trans hexec, hok, fun h => ?_, fun h => ?_⟩
    · rw [htarget (takesPosition_of_opP hopP (by rw [← or_assoc]; exact .inl h)), hbit h]
    · rw [htarget (takesPosition_of_opP hopP (.inr (.inr h))), hbyte h]

end Sys2Proof.Machine
end

section
/-! SUPPORT. The position register and the derived quantities, as fields, as targets and after reset (R33, R34, R43),
and the events of other agents (R72). -/

namespace Sys2Proof.Machine

open Sys2Proof.Claims

/-- R34: BytePosition and BitOffset are the two fields of `pos`. -/
theorem bytePosition_bitOffset_eq_fields (s : State) :
    s.bytePosition = (s.pos.extractLsb 30 3).toNat ∧ s.bitOffset = (s.pos.extractLsb 2 0).toNat := by
  have hlt := s.pos.isLt
  rw [State.bytePosition, State.bitOffset, State.position, BitVec.extractLsb_toNat, BitVec.extractLsb_toNat]
  exact ⟨by rw [Nat.shiftRight_eq_div_pow, Nat.mod_eq_of_lt (by omega)], rfl⟩

/-- R33, R43: at `pos = 0` the derived quantities are 0, and every bit remains. -/
theorem properties_of_position_zero {s : State} (h : s.position = 0) :
    s.bytePosition = 0 ∧ s.bitOffset = 0 ∧ s.remainingBits = 8 * s.len.val := by
  rw [State.bytePosition, State.bitOffset, State.remainingBits, h]
  exact ⟨rfl, rfl, rfl⟩

/-! ## The obligations -/

/-- Settles O22: `BL` is a multiple of 8 below `2^31`, the fields of `pos` are its quotient and remainder by 8, and New
and SetBitPosition are the same checked move. -/
theorem positionInferences : Obligations.PositionInferences := by
  refine ⟨fun s => ?_, fun _ _ => rfl, fun a s => ?_⟩
  · have hlt := bitLength_lt s
    exact ⟨by omega, bytePosition_bitOffset_eq_fields s⟩
  · rw [State.bitLength]
    omega

/-- Settles O24: a reset event and `State.reset` have `pos = 0`, from which the derived quantities follow. -/
theorem resetStateProperties : Obligations.ResetStateProperties := by
  refine ⟨fun s t rest hhost h => ?_, rfl, rfl, ?_⟩
  · cases (step_reset hhost).symm.trans h
    exact ⟨rfl, rfl, rfl, rfl, properties_of_position_zero rfl⟩
  · obtain ⟨hbyte, hoffset, hremaining⟩ := properties_of_position_zero (s := State.reset) rfl
    exact ⟨hbyte, hoffset, hremaining, rfl⟩

/-- Settles O54: a second issuer's command is refused always, another agent's access while the unit holds the buffer. -/
theorem outsideInterferenceIsRefused : Obligations.OutsideInterferenceIsRefused := by
  refine ⟨fun s r rest => step_strayCommand, fun s rest hhost => ?_⟩
  rw [step_strayAccess hhost, dropEvent_of_host hhost]
  exact ⟨fun hlent => if_pos hlent, fun hlent => if_neg (by simp [hlent])⟩

end Sys2Proof.Machine
end

section
/-! SUPPORT. The assembler (R104): a line's command, `AsmLine.command`, is what the line assembles to exactly if its
operands fit, and the command's request carries the line. Each is said side by side, by the encoder's own equations. -/

namespace Sys2Proof.Machine

open Sys2Proof.Claims

/-! ## The command of a line -/

/-- R95, R96, R105: the command that a line names, whether or not its operands fit their fields. -/
def AsmLine.command : AsmLine → Instr
  | .readSide v t w count => Sys2Proof.readSide v t w (countOrDefault w count)
  | .writeSide v t w value count =>
    Sys2Proof.writeSide v t w (BitVec.ofNat 64 value) (countOrDefault w count)
  | .new offset => propertySide 0 (offset.getD 0)
  | .getBitLength => propertySide 1 0
  | .getBitPosition => propertySide 2 0
  | .setBitPosition position => propertySide 3 position
  | .getBytePosition => propertySide 4 0
  | .setBytePosition bytePosition => propertySide 5 bytePosition
  | .getBitOffset => propertySide 6 0
  | .getRemainingBits => propertySide 7 0

theorem argFits_iff {a : Int} : argFits a = true ↔ SignedFits a := by
  rw [argFits, decide_eq_true_eq, SignedFits]

theorem ifArgFits_eq_some {a : Int} {i j : Instr} : ifArgFits a j = some i ↔ SignedFits a ∧ j = i := by
  rw [ifArgFits, ← argFits_iff]
  by_cases h : argFits a = true
  · rw [if_pos h, Option.some.injEq, and_iff_right h]
  · rw [if_neg h]
    exact ⟨nofun, fun hfits => absurd hfits.1 h⟩

theorem signedFits_written {a : Int} (h : argFits a = true) : ∀ n, some a = some n → SignedFits n := by
  intro n hn
  cases hn
  exact argFits_iff.1 h

/-- R105: the default of an optional operand fits, so the operand fits where the one written does. -/
theorem signedFits_getD {operand : Option Int} {default : Int} (hdefault : SignedFits default) :
    SignedFits (operand.getD default) ↔ ∀ n, operand = some n → SignedFits n := by
  cases operand with
  | none => exact iff_of_true hdefault nofun
  | some n =>
    refine ⟨fun h m hm => ?_, fun h => h n rfl⟩
    cases hm
    exact h

theorem signedFits_zero : SignedFits 0 := argFits_iff.1 rfl

theorem signedFits_classMax (w : WidthClass) : SignedFits (classMax w) := by
  have hmax := classMax_le w
  exact ⟨by omega, by omega⟩

/-- R97, R105: a line's count, or the full width, fits ARG where the count written does. -/
theorem signedFits_countOrDefault (w : WidthClass) (count : Option Int) :
    SignedFits (countOrDefault w count) ↔ ∀ n, count = some n → SignedFits n :=
  signedFits_getD (signedFits_classMax w)

theorem assemble_readSide_eq_some {v t : Bool} {w : WidthClass} {count : Option Int} {i : Instr} :
    assemble (.readSide v t w count) = some i ↔
      LineFits (.readSide v t w count) ∧ (AsmLine.readSide v t w count).command = i := by
  by_cases hw : w = .bit
  · subst hw
    cases count with
    | none =>
      have hfits : LineFits (.readSide v t .bit none) := ⟨fun _ => rfl, nofun⟩
      rw [assemble, AsmLine.command, Option.some.injEq, and_iff_right hfits, readSide_congr rfl v t]
    | some n => exact ⟨nofun, fun ⟨⟨hbit, _⟩, _⟩ => nomatch hbit rfl⟩
  · rw [assemble_readSide hw, ifArgFits_eq_some, signedFits_countOrDefault, LineFits, AsmLine.command,
      and_iff_right fun h => absurd h hw]

/-- R104: a write-side line is assembled by its value and its count, but for a Bit line with a count. -/
theorem assemble_writeSide_of_count {w : WidthClass} {count : Option Int} (hbit : w = .bit → count = none)
    (v t : Bool) (value : Nat) :
    assemble (.writeSide v t w value count) =
      if value < 2 ^ 64 then
        ifArgFits (countOrDefault w count)
          (writeSide v t w (BitVec.ofNat 64 value) (countOrDefault w count))
      else none := by
  by_cases hw : w = .bit
  · subst hw
    cases hbit rfl
    rfl
  · exact assemble_writeSide hw v t value count

theorem assemble_writeSide_eq_some {v t : Bool} {w : WidthClass} {value : Nat} {count : Option Int} {i : Instr} :
    assemble (.writeSide v t w value count) = some i ↔
      LineFits (.writeSide v t w value count) ∧ (AsmLine.writeSide v t w value count).command = i := by
  by_cases hbit : w = .bit → count = none
  · rw [assemble_writeSide_of_count hbit, LineFits, and_iff_right hbit]
    by_cases hvalue : value < 2 ^ 64
    · rw [if_pos hvalue, ifArgFits_eq_some, signedFits_countOrDefault, and_iff_right hvalue, AsmLine.command]
    · rw [if_neg hvalue]
      exact ⟨nofun, fun ⟨⟨hfits, _⟩, _⟩ => absurd hfits hvalue⟩
  · obtain ⟨hw, hcount⟩ := Classical.not_imp.1 hbit
    subst hw
    obtain ⟨n, rfl⟩ := Option.ne_none_iff_exists'.1 hcount
    exact ⟨nofun, fun ⟨⟨_, hnone, _⟩, _⟩ => absurd (hnone rfl) hcount⟩

/-- R104: a line assembles to its command exactly if its operands fit their fields. -/
theorem assemble_eq_some {line : AsmLine} {i : Instr} :
    assemble line = some i ↔ LineFits line ∧ line.command = i := by
  cases line with
  | readSide v t w count => exact assemble_readSide_eq_some
  | writeSide v t w value count => exact assemble_writeSide_eq_some
  | new offset => rw [assemble, ifArgFits_eq_some, signedFits_getD signedFits_zero]; rfl
  | setBitPosition position => exact ifArgFits_eq_some
  | setBytePosition bytePosition => exact ifArgFits_eq_some
  | _ => exact Option.some_inj.trans (and_iff_right trivial).symm

/-! ## The request of a line -/

theorem opA_toNat (s v t : Bool) (w : WidthClass) :
    (opA s v t w).toNat = 64 * s.toNat + 32 * v.toNat + 16 * t.toNat + classNumber w := by
  cases s <;> cases v <;> cases t <;> cases w <;> rfl

/-- R97: ARG carries an operand that fits. -/
theorem argOf_toInt {a : Int} (h : SignedFits a) : (argOf a).toInt = a := by
  rw [← signedArg_eq_toInt, signedArg_argOf (argFits_iff.2 h)]

theorem carriesCount_operandField {w : WidthClass} {count : Option Int}
    (hcount : ∀ n, count = some n → SignedFits n) (op : Byte) (wdata : Data) :
    CarriesCount w count ⟨op, operandField (takesCount w) (countOrDefault w count), wdata⟩ := by
  refine ⟨fun hw => by rw [hw]; rfl, fun hw => ?_⟩
  rw [takesCount, decide_eq_true hw]
  exact argOf_toInt ((signedFits_countOrDefault w count).2 hcount)

/-- R104: the request of a line that fits carries the mnemonic and the operands of the line. -/
theorem carries_encode_command {line : AsmLine} (h : LineFits line) : Carries line (encode line.command) := by
  cases line with
  | readSide v t w count =>
    obtain ⟨-, hcount⟩ := h
    rw [AsmLine.command, encode_readSide]
    exact ⟨by rw [opA_toNat]; simp, carriesCount_operandField hcount _ _, rfl⟩
  | writeSide v t w value count =>
    obtain ⟨hvalue, -, hcount⟩ := h
    rw [AsmLine.command, encode_writeSide]
    exact ⟨opA_toNat true v t w, carriesCount_operandField hcount _ _,
      (BitVec.toNat_ofNat value 64).trans (Nat.mod_eq_of_lt hvalue)⟩
  | new offset => exact ⟨rfl, argOf_toInt ((signedFits_getD signedFits_zero).2 h), rfl⟩
  | setBitPosition position => exact ⟨rfl, argOf_toInt h, rfl⟩
  | setBytePosition bytePosition => exact ⟨rfl, argOf_toInt h, rfl⟩
  | _ => rfl

/-- R97: the command of a line that fits can be sent. -/
theorem wellFormed_command {line : AsmLine} (h : LineFits line) : line.command.wellFormed = true := by
  cases line with
  | readSide v t w count =>
    obtain ⟨-, hcount⟩ := h
    rw [AsmLine.command, wellFormed_readSide, argFits_iff.2 ((signedFits_countOrDefault w count).2 hcount),
      Bool.or_true]
  | writeSide v t w value count =>
    obtain ⟨-, -, hcount⟩ := h
    rw [AsmLine.command, wellFormed_writeSide, argFits_iff.2 ((signedFits_countOrDefault w count).2 hcount),
      Bool.or_true]
  | new offset => exact argFits_iff.2 ((signedFits_getD signedFits_zero).2 h)
  | setBitPosition position => exact argFits_iff.2 h
  | setBytePosition bytePosition => exact argFits_iff.2 h
  | _ => rfl

/-! ## Text -/

/-- The lines of R104's examples, and one with an operand below 0. -/
theorem parseLine_examples :
    parseLine "ReadByte 3" = some (.readSide true true .byte (some 3)) ∧
      parseLine "PeekBit" = some (.readSide false true .bit none) ∧
      parseLine "WriteByte 0xD, 4" = some (.writeSide true true .byte 0xD (some 4)) ∧
      parseLine "PokeBit 1" = some (.writeSide false true .bit 1 none) ∧
      parseLine "SetBitPosition -1" = some (.setBitPosition (-1)) := by
  decide

/-- R104: the request of a text whose line fits. -/
theorem assembleText_of_parseLine {text : String} {line : AsmLine} (htext : parseLine text = some line)
    (hfits : LineFits line) : assembleText text = some (encode line.command) := by
  rw [assembleText, htext, Option.bind_some, assemble_eq_some.2 ⟨hfits, rfl⟩, Option.map_some]

/-! ## The obligations -/

/-- Settles O57: a line that assembles is its command with operands that fit, and of such a command the encoder's
equations give the request. -/
theorem assembledLinesAreCommands : Obligations.AssembledLinesAreCommands := by
  refine ⟨fun line i h => ?_, fun line => ⟨fun ⟨_, h⟩ => ?_, fun h => ⟨_, assemble_eq_some.2 ⟨h, rfl⟩⟩⟩, ?_⟩
  · obtain ⟨hfits, rfl⟩ := assemble_eq_some.1 h
    have hwf := wellFormed_command hfits
    exact ⟨hwf, decode_encode hwf, carries_encode_command hfits⟩
  · exact (assemble_eq_some.1 h).1
  · obtain ⟨hread, hpeek, hwrite, hpoke, hset⟩ := parseLine_examples
    exact ⟨assembleText_of_parseLine hread ⟨nofun, signedFits_written rfl⟩,
      assembleText_of_parseLine hpeek ⟨fun _ => rfl, nofun⟩,
      assembleText_of_parseLine hwrite ⟨by decide, nofun, signedFits_written rfl⟩,
      assembleText_of_parseLine hpoke ⟨by decide, fun _ => rfl, nofun⟩,
      assembleText_of_parseLine hset (argFits_iff.1 rfl)⟩

end Sys2Proof.Machine
end
